-- ==== Sys2Proof/Word.lean ====
section
/-! DEFINITION. The word types of the block, one per width the spec gives (R4, R67): all values are unsigned and
bit 0 is the least significant bit (R6). -/

namespace Sys2Proof

/-- One source byte (R42). -/
abbrev Byte := BitVec 8

/-- A byte address of the source byte space: `ADDR_W` = 32 bits (R4, R40). -/
abbrev Addr := BitVec 32

/-- A counter of `CNT_W` = 32 bits: `REM_BYTES`, `ENG_REM` (R4, R15, R17). -/
abbrev Count := BitVec 32

/-- A duration code, and the content of one ring slot: `CODE_W` = 16 bits (R4, R60). -/
abbrev Code := BitVec 16

/-- A ring cursor: `CUR_W` = 7 bits, so every value is a slot index `0 .. CAP − 1` (R4, R12, R13). -/
abbrev Cursor := BitVec 7

/-- An operation word: 48 bits (R67). -/
abbrev OpWord := BitVec 48

end Sys2Proof
end

