-- ==== Sys2Proof/Config.lean ====
section
/-! DEFINITION. The parameters of the block (R4), the admission of a configuration (R5, R140), and the free values: what
the spec leaves open is an opaque constant, whose value no proof can see. -/

namespace Sys2Proof

/-- `CAP`, the ring capacity in slots (R4). -/
abbrev Config.cap : Nat := 128

/-- `RESET_BITS`, the zero-duration slots of the reset hold (R4). -/
def Config.resetBits : Nat := 40

/-- `BITS_PER_BYTE`, the ring slots of one source byte (R4). -/
def Config.bitsPerByte : Nat := 8

/-- `BITS_PER_LED`, the slots of one LED (R4). -/
def Config.bitsPerLed : Nat := 24

/-- `BYTES_PER_LED`, the source bytes of one LED (R4). -/
def Config.bytesPerLed : Nat := 3

/-- `ZERO_CODE`, the reset-hold code (R4, R61). -/
def Config.zeroCode : Code := 0x0000

/-- `N_MAX`, the largest admitted LED count (R4). -/
def Config.nMax : Nat := 178956968

/-- `SPEED`, the protocol speed option (R4): only the fast variant exists as hardware. -/
inductive Speed where
  | fast
  | slow
deriving DecidableEq, Repr

/-- A configuration as it is asked for, before it is admitted (R163 step 1). -/
structure RawConfig where
  n : Nat
  longCode : Nat
  shortCode : Nat
  period : Nat
  speed : Speed
deriving DecidableEq, Repr

/-- Why a configuration is refused (R5, R140). -/
inductive ConfigRefusal where
  /-- R5 (d): the slow protocol variant is not implemented. -/
  | slowSpeed
  /-- R5 (a), (b): a code is zero. -/
  | zeroShortCode
  /-- R5 (a): the codes are not `SHORT_CODE < LONG_CODE`. -/
  | codesNotOrdered
  /-- R5 (a): a code does not end within the slot. -/
  | codeNotBelowPeriod
  /-- R5 (a): `PERIOD` does not fit 16 bits. -/
  | periodTooLong
  /-- R5 (c): a counter would overflow. -/
  | tooManyLeds
deriving DecidableEq, Repr

/-- An admitted configuration: a type that cannot hold a refused one (R140).
`n` is the register `CFG_N` (R25). -/
structure Config where
  n : BitVec 32
  longCode : Code
  shortCode : Code
  period : Code
  shortPos : 0 < shortCode.toNat
  shortLtLong : shortCode.toNat < longCode.toNat
  longLtPeriod : longCode.toNat < period.toNat
  countFits : n.toNat ≤ Config.nMax
deriving DecidableEq, Repr

/-- The number of source bytes of one cycle, `3·N` (R15). -/
def Config.totalBytes (c : Config) : Nat := Config.bytesPerLed * c.n.toNat

/-- `TOTAL(N) = 24·N + RESET_BITS`, the slots of one cycle (R110). -/
def Config.totalSlots (c : Config) : Nat := Config.bitsPerLed * c.n.toNat + Config.resetBits

/-- RESULT where the spec says it is unspecified: BUSY and RDSTATE before BEGIN (R121, R122). Free value, log 10. -/
opaque Config.freeResult : Nat → BitVec 32

/-- The power-on content of a ring slot that nothing has written (R11, R41). Free value, log 7. -/
opaque Config.ringPowerOn : Cursor → Code

/-- The line in one protocol bit slot: high for `high` pulse-timer counts, then low for `low` counts (R108). -/
structure Pulse where
  high : Nat
  low : Nat
deriving DecidableEq, Repr, Inhabited

/-- The line for a code at or above `PERIOD`, which the spec does not describe (R108), as a function of the code and
the period. Free value, log 14. -/
opaque Config.overlongPulse : Code → Code → Pulse

/-- The configuration `State.reset` is built with: TC1 (R5) and `N` = 6. DESIGN CHOICE, log 5. -/
def Config.default : Config where
  n := 6
  longCode := 0x0026
  shortCode := 0x0013
  period := 0x003C
  shortPos := by decide
  shortLtLong := by decide
  longLtPeriod := by decide
  countFits := by decide

end Sys2Proof
end

