-- ==== Sys2Proof/Syntax.lean ====
section
/-! DEFINITION. The operations of the block, one constructor per row of the opcode map (R68), and the fields of the
operation word before they are checked (R67). -/

namespace Sys2Proof

/-- The eight operations (R68). Operands are taken as they stand (R69). -/
inductive Instr where
  | begin
  | start (src : Addr)
  | busy
  | rdstate
  | poke (addr : Addr) (data : Byte)
  | tick
  | consume
  | complete
deriving DecidableEq, Repr

/-- The four agents (R8). -/
inductive Agent where
  | host
  | producer
  | engine
  | completer
deriving DecidableEq, Repr

/-- Whose step an operation is (R8, R68). -/
def Instr.agent : Instr → Agent
  | .begin => .host
  | .start _ => .host
  | .busy => .host
  | .rdstate => .host
  | .poke _ _ => .host
  | .tick => .producer
  | .consume => .engine
  | .complete => .completer

/-- The mnemonic of the opcode map (R68). -/
def Instr.mnemonic : Instr → String
  | .begin => "BEGIN"
  | .start _ => "START"
  | .busy => "BUSY"
  | .rdstate => "RDSTATE"
  | .poke _ _ => "POKE"
  | .tick => "TICK"
  | .consume => "CONSUME"
  | .complete => "COMPLETE"

/-- The three fields of an operation word (R67). -/
structure OpFields where
  opc : BitVec 8
  a : Addr
  b : Byte
deriving DecidableEq, Repr

end Sys2Proof
end

