-- ==== Sys2Proof/WellFormed.lean ====
section
/-! DEFINITION. What is legal before anything runs: the fields of an operation word (R70) and a configuration
(R5, R140), each check refusing by name. -/

namespace Sys2Proof

/-- Why an operation word is illegal (R70). -/
inductive Illegal where
  /-- R70 (a): the operation code is unassigned. -/
  | unassignedOpc
  /-- R70 (b): operand A must be zero and is not. -/
  | operandANotZero
  /-- R70 (b), (c): operand B must be zero and is not. -/
  | operandBNotZero
deriving DecidableEq, Repr

/-- The operation codes of R68. -/
def OpFields.assigned (opc : BitVec 8) : Bool :=
  opc == 0x01 || opc == 0x02 || opc == 0x03 || opc == 0x04 || opc == 0x05 || opc == 0x10 || opc == 0x20 || opc == 0x21

/-- Operand A is used by START and POKE only (R67). -/
def OpFields.usesA (opc : BitVec 8) : Bool := opc == 0x02 || opc == 0x05

/-- Operand B is used by POKE only (R67). -/
def OpFields.usesB (opc : BitVec 8) : Bool := opc == 0x05

/-- The first reason the fields are illegal, if any (R70). -/
def OpFields.illegal (f : OpFields) : Option Illegal :=
  if !OpFields.assigned f.opc then some .unassignedOpc
  else if !OpFields.usesA f.opc && f.a != 0 then some .operandANotZero
  else if !OpFields.usesB f.opc && f.b != 0 then some .operandBNotZero
  else none

/-- The fields are those of a legal word (R70). -/
abbrev OpFields.WellFormed (f : OpFields) : Prop := f.illegal = none

/-- The first constraint of R5 a configuration breaks, if any (R140). -/
def RawConfig.refusal (r : RawConfig) : Option ConfigRefusal :=
  if r.speed = .slow then some .slowSpeed
  else if r.shortCode = 0 then some .zeroShortCode
  else if r.longCode ≤ r.shortCode then some .codesNotOrdered
  else if r.period ≤ r.longCode then some .codeNotBelowPeriod
  else if 0xFFFF < r.period then some .periodTooLong
  else if Config.nMax < r.n then some .tooManyLeds
  else none

/-- The configuration is admitted (R140). -/
abbrev RawConfig.WellFormed (r : RawConfig) : Prop := r.refusal = none

theorem RawConfig.bounds_of_wellFormed {r : RawConfig} (h : r.WellFormed) :
    0 < r.shortCode ∧ r.shortCode < r.longCode ∧ r.longCode < r.period ∧ r.period ≤ 0xFFFF ∧ r.n ≤ Config.nMax := by
  unfold RawConfig.WellFormed RawConfig.refusal at h
  repeat' split at h
  all_goals first | (cases h; done) | omega

/-- The admitted configuration, at the widths of R4. -/
def RawConfig.toConfig (r : RawConfig) (h : r.WellFormed) : Config where
  n := BitVec.ofNat 32 r.n
  longCode := BitVec.ofNat 16 r.longCode
  shortCode := BitVec.ofNat 16 r.shortCode
  period := BitVec.ofNat 16 r.period
  shortPos := by
    have := RawConfig.bounds_of_wellFormed h
    simp only [BitVec.toNat_ofNat]; omega
  shortLtLong := by
    have := RawConfig.bounds_of_wellFormed h
    simp only [BitVec.toNat_ofNat]; omega
  longLtPeriod := by
    have := RawConfig.bounds_of_wellFormed h
    simp only [BitVec.toNat_ofNat]; omega
  countFits := by
    have := RawConfig.bounds_of_wellFormed h
    unfold Config.nMax at this ⊢
    simp only [BitVec.toNat_ofNat]; omega

/-- Configure the block, or refuse before there is a machine (R140). -/
def RawConfig.configure (r : RawConfig) : Except ConfigRefusal Config :=
  match h : r.refusal with
  | none => .ok (r.toConfig h)
  | some e => .error e

end Sys2Proof
end

