-- ==== Sys2Proof/Decode.lean ====
section
/-! DEFINITION. The decoder, total on 48-bit words and refusing by name (R67, R68, R70), the encoder, and the opcode
map as rows of mask and match (R68). -/

namespace Sys2Proof

/-- The fields of a word: `opc` 47:40, `a` 39:8, `b` 7:0 (R67). -/
def fieldsOf (w : OpWord) : OpFields where
  opc := w.extractLsb' 40 8
  a := w.extractLsb' 8 32
  b := w.extractLsb' 0 8

/-- The word of the fields (R67). -/
def wordOf (f : OpFields) : OpWord := BitVec.cast (n := 8 + 32 + 8) rfl (f.opc ++ f.a ++ f.b)

/-- The operation a legal word stands for (R68); an unassigned code has none. -/
def operationOf (f : OpFields) : Option Instr :=
  if f.opc = 0x01 then some .begin
  else if f.opc = 0x02 then some (.start f.a)
  else if f.opc = 0x03 then some .busy
  else if f.opc = 0x04 then some .rdstate
  else if f.opc = 0x05 then some (.poke f.a f.b)
  else if f.opc = 0x10 then some .tick
  else if f.opc = 0x20 then some .consume
  else if f.opc = 0x21 then some .complete
  else none

/-- Decode checked fields: the name of what is wrong, or the operation (R70). -/
def decodeFields (f : OpFields) : Except Illegal Instr :=
  match f.illegal with
  | some e => .error e
  | none =>
    match operationOf f with
    | some i => .ok i
    | none => .error .unassignedOpc

/-- Decode one operation word (R68, R70). -/
def decode (w : OpWord) : Except Illegal Instr := decodeFields (fieldsOf w)

/-- The fields of an operation (R67, R68). -/
def fieldsOfInstr : Instr → OpFields
  | .begin => ⟨0x01, 0, 0⟩
  | .start src => ⟨0x02, src, 0⟩
  | .busy => ⟨0x03, 0, 0⟩
  | .rdstate => ⟨0x04, 0, 0⟩
  | .poke addr data => ⟨0x05, addr, data⟩
  | .tick => ⟨0x10, 0, 0⟩
  | .consume => ⟨0x20, 0, 0⟩
  | .complete => ⟨0x21, 0, 0⟩

/-- Encode an operation (R67, R68). -/
def encode (i : Instr) : OpWord := wordOf (fieldsOfInstr i)

/-- An operation is well-formed when the fields it is encoded with are legal (R70). -/
abbrev Instr.WellFormed (i : Instr) : Prop := (fieldsOfInstr i).WellFormed

/-- One row of the opcode map (R68): a word `w` selects the row iff `w AND mask = pattern`. -/
structure OpRow where
  mnemonic : String
  pattern : OpWord
  mask : OpWord
deriving DecidableEq, Repr

/-- The opcode map (R68). -/
def opcodeMap : List OpRow :=
  [ ⟨"BEGIN", 0x010000000000, 0xFFFFFFFFFFFF⟩,
    ⟨"START", 0x020000000000, 0xFF00000000FF⟩,
    ⟨"BUSY", 0x030000000000, 0xFFFFFFFFFFFF⟩,
    ⟨"RDSTATE", 0x040000000000, 0xFFFFFFFFFFFF⟩,
    ⟨"POKE", 0x050000000000, 0xFF0000000000⟩,
    ⟨"TICK", 0x100000000000, 0xFFFFFFFFFFFF⟩,
    ⟨"CONSUME", 0x200000000000, 0xFFFFFFFFFFFF⟩,
    ⟨"COMPLETE", 0x210000000000, 0xFFFFFFFFFFFF⟩ ]

/-- The word selects the row (R68). -/
def OpRow.selects (r : OpRow) (w : OpWord) : Bool := w &&& r.mask == r.pattern

/-- The operation word whose low `nbits` bits are those of `w` and whose other bits are zero.
An operation word is one 48-bit word with no byte order (R67; log 11). -/
def wordOfBits (nbits w : Nat) : OpWord := BitVec.ofNat 48 (w % 2 ^ nbits)

/-- What the decoder reads from an instruction whose bits are `w`, numbered as spec/opcode_table.json numbers them. -/
def decodeTableWord (nbits w : Nat) : Option Instr :=
  match decode (wordOfBits nbits w) with
  | .ok i => some i
  | .error _ => none

end Sys2Proof
end

