-- ==== Sys2Proof/Machine/State.lean ====
section
/-! DEFINITION. The state of the block as plain data (10_state.md), the reasons a step can stop, and the state at
power-on (R160). -/

namespace Sys2Proof.Machine

/-- `STATE`, the transfer state (R19). -/
inductive Phase where
  | idle
  | streaming
  | resettingHold
  | draining
deriving DecidableEq, Repr

/-- The Host operations, as CONTRACT records which one raised it (R136). -/
inductive HostOp where
  | begin
  | start
  | busy
  | rdstate
  | poke
deriving DecidableEq, Repr

/-- A member of the sticky ghost set `FAULT` with the value recorded with it (R29, R136).
A mark stops nothing: the operation that raises it completes. -/
inductive FaultMark where
  /-- UNDERRUN, raised by CONSUME, with the slot index `RD` (R105). -/
  | underrun (slot : Cursor)
  /-- CONTRACT, raised by a Host operation, with the operation (R138). -/
  | contract (op : HostOp)
  /-- SRC_MUTATION, raised by POKE, with the address (R139). -/
  | srcMutation (addr : Addr)
deriving DecidableEq, Repr

/-- The source byte space: (address, byte) pairs, addresses strictly rising, no entry equal to what an unlisted
address reads as (R40, R47). -/
abbrev Memory := List Host.Cell

/-- The state of the block (R10: it exists once). -/
structure State where
  /-- `x[0]` STATE (R19). -/
  phase : Phase
  /-- `x[1]` WR, the write cursor (R12). -/
  wr : Cursor
  /-- `x[2]` RD, the read cursor (R13). -/
  rd : Cursor
  /-- `x[3]` SRC_PTR, the address of the next source byte (R14). -/
  srcPtr : Addr
  /-- `x[4]` REM_BYTES, the remaining source bytes (R15). -/
  remBytes : Count
  /-- `x[5]` REM_RESET, the remaining reset-hold slots (R16). -/
  remReset : BitVec 16
  /-- `x[6]` ENG_REM, the Engine's remaining slots (R17). -/
  engRem : Count
  /-- `x[7]` CMP, the pulse-width timer's compare register (R18). -/
  cmp : Code
  /-- `CTRL[0]` BEGUN (R21). -/
  begun : Bool
  /-- `CTRL[1]` ENG_EN (R22). -/
  engEn : Bool
  /-- `CTRL[2]` REFILL_EN (R23). -/
  refillEn : Bool
  /-- `CTRL[3]` DONE_PEND, the pending completion interrupt (R24). -/
  donePend : Bool
  /-- The configuration; `cfg.n` is `x[9]` CFG_N (R25). No operation writes it. -/
  cfg : Config
  /-- `RING`, the Pulse Ring Buffer; `none` is a slot nothing has written since power-on (R11). -/
  ring : Vector (Option Code) Config.cap
  /-- The source byte space (R40). -/
  mem : Memory
  /-- Ghost PRODUCED (R27). -/
  produced : Nat
  /-- Ghost CONSUMED (R27). -/
  consumed : Nat
  /-- Ghost OUT, the output trace, oldest code first (R28). -/
  out : List Code
  /-- Ghost FAULT, the sticky set: no repeats, in the order first raised (R29; log 16). -/
  fault : List FaultMark
  /-- RESULT, the Host's result port: the last value delivered (R127; log 9). -/
  result : BitVec 32
  /-- The MODEL's own field: which free value of RESULT comes next (log 10). -/
  freeCount : Nat
  /-- The operand of the START the Host has outstanding, held (R9, R117; log 4). -/
  outstanding : Option Addr
  /-- The operation words still to come, the next one first (R74; log 1). -/
  schedule : List OpWord
deriving DecidableEq, Repr

/-- Why the machine stops. The hardware itself reports no error and the faults of R136 are marks in `State.fault`. -/
inductive Fault where
  /-- Raised by `step` when no operation word is left: no agent takes a step (R74; log 2). Safe. -/
  | scheduleEnd
deriving DecidableEq, Repr

/-- Why a word has no step here. -/
inductive Refusal where
  /-- Raised by an arm of `exec` for an operation that has no meaning yet. Safe. -/
  | notModelled (mnemonic : String)
  /-- Raised by `step`: the word matches no row of the opcode map (R70, R141). Safe: the spec refuses it. -/
  | illegal (reason : Illegal)
  /-- Raised by TICK, CONSUME, COMPLETE when the event's enabling condition is false: it does not occur
  (R9, R74; log 3). Safe. -/
  | notEnabled (mnemonic : String)
  /-- Raised by `step` for a Host word while a START is outstanding: the Host issues nothing else (R117, R169; log 4).
  Safe. -/
  | hostBlocked
deriving DecidableEq, Repr

/-- The power-on state for a configuration, the source bytes of the launch and a schedule (R160, R47, R74): only BEGUN,
FAULT and OUT have values the spec gives; the other values are the model's (log 6, 7, 9, 10). -/
def State.powerOn (cfg : Config) (mem : Memory) (schedule : List OpWord) : State where
  phase := .idle
  wr := 0
  rd := 0
  srcPtr := 0
  remBytes := 0
  remReset := 0
  engRem := 0
  cmp := 0
  begun := false
  engEn := false
  refillEn := false
  donePend := false
  cfg := cfg
  ring := Vector.replicate Config.cap none
  mem := mem
  produced := 0
  consumed := 0
  out := []
  fault := []
  result := 0
  freeCount := 0
  outstanding := none
  schedule := schedule

/-- The machine right after power-on (R160): no source byte listed (log 8), the configuration of log 5, no operation
word (log 1). -/
def State.reset : State := State.powerOn Config.default [] []

end Sys2Proof.Machine
end

