-- ==== Sys2Proof/Machine/Ops.lean ====
section
/-! DEFINITION. The named operations on the state: source bytes, ring slots, cursors, marks, the result port, interrupt
entry and return, and the fetch of the next operation word. -/

namespace Sys2Proof.Machine

/-! ## The source byte space (R40, R42) -/

/-- What an address that is not listed reads as (R47: the launch state's business; log 8). -/
def Memory.unlisted (_addr : Nat) : Byte := 0

/-- `MemRead(addr, 1)` (R42). -/
def Memory.read : Memory → Nat → Byte
  | [], addr => Memory.unlisted addr
  | (k, v) :: rest, addr =>
    if addr < k then Memory.unlisted addr
    else if addr = k then v
    else Memory.read rest addr

/-- A cell in front of a memory, left out where it says what an unlisted address reads as. -/
def Memory.cell (addr : Nat) (v : Byte) (rest : Memory) : Memory :=
  if v = Memory.unlisted addr then rest else (addr, v) :: rest

/-- `MemWrite(addr, 1, v)` (R42), keeping the canonical form. -/
def Memory.write : Memory → Nat → Byte → Memory
  | [], addr, v => Memory.cell addr v []
  | (k, u) :: rest, addr, v =>
    if addr < k then Memory.cell addr v ((k, u) :: rest)
    else if addr = k then Memory.cell addr v rest
    else (k, u) :: Memory.write rest addr v

/-- The canonical form from address `lo` up: addresses strictly rising and below `2^32`, no entry that says what an
unlisted address reads as. -/
def Memory.wfFrom : Nat → Memory → Bool
  | _, [] => true
  | lo, (k, v) :: rest =>
    decide (lo ≤ k) && decide (k < 2 ^ 32) && decide (v ≠ Memory.unlisted k) && Memory.wfFrom (k + 1) rest

/-- The memory is in its canonical form. -/
def Memory.wf (m : Memory) : Bool := Memory.wfFrom 0 m

/-- The source byte at an address (R42). -/
def State.readByte (s : State) (addr : Addr) : Byte := Memory.read s.mem addr.toNat

/-- Write one source byte (R42). -/
def State.writeByte (s : State) (addr : Addr) (v : Byte) : State :=
  { s with mem := Memory.write s.mem addr.toNat v }

/-! ## The ring and its cursors (R41, R12, R13) -/

/-- `(c + 1) mod CAP` (R94): `CAP` is `2^7`, the wrap of a 7-bit cursor. -/
def cursorNext (c : Cursor) : Cursor := c + 1

/-- `RingRead(i)`: the whole slot; a slot never written since power-on holds an unspecified value (R41; log 7). -/
def State.readSlot (s : State) (i : Cursor) : Code := (s.ring[i.toNat]'i.isLt).getD (Config.ringPowerOn i)

/-- `RingWrite(i, v)`: replace the whole slot (R41). -/
def State.writeSlot (s : State) (i : Cursor) (v : Code) : State :=
  { s with ring := s.ring.set i.toNat (some v) i.isLt }

/-- One slot write of the Producer: the slot at `WR`, then `WR` and the ghost PRODUCED (R82, R84). -/
def State.putSlot (s : State) (v : Code) : State :=
  { s.writeSlot s.wr v with wr := cursorNext s.wr, produced := s.produced + 1 }

/-- Successive slot writes of the Producer, in order. -/
def State.putSlots (s : State) (codes : List Code) : State := codes.foldl State.putSlot s

/-! ## Marks and the result port (R7, R136, R127) -/

/-- Add to a set kept as a list without repeats. -/
def addMark (marks : List FaultMark) (m : FaultMark) : List FaultMark :=
  if m ∈ marks then marks else marks ++ [m]

/-- `raise`: add a mark to the sticky set FAULT; nothing else changes (R7, R136). -/
def State.raise (s : State) (m : FaultMark) : State := { s with fault := addMark s.fault m }

/-- `RESULT <- v` (R7, R127). -/
def State.deliver (s : State) (v : BitVec 32) : State := { s with result := v }

/-- `RESULT <- unspecified`: the next free value (R121, R122; log 10). -/
def State.deliverFree (s : State) : State :=
  { s with result := Config.freeResult s.freeCount, freeCount := s.freeCount + 1 }

/-! ## Interrupt entry and return (R145, R146) -/

/-- Taking either interrupt: it saves nothing and changes nothing in the block (R145). -/
def State.interruptEntry (s : State) : State := s

/-- The end of a handler: there is no return operation, and nothing is restored or re-enabled (R146). -/
def State.interruptReturn (s : State) : State := s

/-! ## The schedule (R74) -/

/-- The next operation word, and the state with the word taken. -/
def State.nextWord (s : State) : Option (OpWord × State) :=
  match s.schedule with
  | [] => none
  | w :: rest => some (w, { s with schedule := rest })

/-- The state with an operation word put where `nextWord` takes the next one. -/
def State.putWord (s : State) (w : OpWord) : State := { s with schedule := w :: s.schedule }

/-- START held: the operation stays outstanding and nothing else changes (R117 case 4). -/
def State.hold (s : State) (src : Addr) : State := { s with outstanding := some src }

end Sys2Proof.Machine
end

