-- ==== Sys2Proof/Machine/Operands.lean ====
section
/-! DEFINITION. The operand forms (R69) and the address computations on them: the duration codes of a byte, the region
of a START, the region of the running cycle. -/

namespace Sys2Proof.Machine

/-- `code_of_bit(b)` (R62). -/
def codeOfBit (c : Config) (b : Bool) : Code := if b then c.longCode else c.shortCode

/-- `codes_of_byte(B)`: bit 7 first (R63). -/
def codesOfByte (c : Config) (v : Byte) : List Code :=
  [7, 6, 5, 4, 3, 2, 1, 0].map fun i => codeOfBit c (v.getLsbD i)

/-- `src + 3·N > 2^32`, compared in the naturals (R48, R94). -/
def State.sourceWraps (s : State) (src : Addr) : Bool := decide (2 ^ 32 < src.toNat + s.cfg.totalBytes)

/-- `base = SRC_PTR − (3·N − REM_BYTES)`, the first byte of the running cycle, not modulo `2^32` (R14, R94). -/
def State.sourceBase (s : State) : Int := s.srcPtr.toNat - ((s.cfg.totalBytes : Int) - s.remBytes.toNat)

/-- `base ≤ addr < base + 3·N` (R123). -/
def State.inSource (s : State) (addr : Addr) : Bool :=
  decide (s.sourceBase ≤ addr.toNat ∧ (addr.toNat : Int) < s.sourceBase + s.cfg.totalBytes)

/-- `AVAIL = (RD − WR − 1) mod CAP` (R80): `CAP` is `2^7`, the wrap of the 7-bit cursors. -/
def State.avail (s : State) : Nat := (s.rd - s.wr - 1).toNat

end Sys2Proof.Machine
end

