-- ==== Sys2Proof/Machine/Flags.lean ====
section
/-! DEFINITION. The derived flag BUSY, the numeric codes of STATE, CTRL and the marks, the enabling conditions of the
operations, and the numbered view of the registers. -/

namespace Sys2Proof.Machine

/-- The 2-bit code of STATE (R19, R65). -/
def Phase.code : Phase → BitVec 2
  | .idle => 0b00
  | .streaming => 0b01
  | .resettingHold => 0b10
  | .draining => 0b11

/-- The Producer has slots to write in this phase (R81). -/
def Phase.producing : Phase → Bool
  | .idle => false
  | .streaming => true
  | .resettingHold => true
  | .draining => false

/-- `BUSY = 1` iff `STATE = Streaming` (R26). -/
def State.busy (s : State) : Bool := s.phase == .streaming

/-- `x[8]` CTRL: BEGUN, ENG_EN, REFILL_EN, DONE_PEND from bit 0 up (R21 to R24). -/
def State.ctrl (s : State) : BitVec 4 :=
  BitVec.ofBool s.donePend ++ BitVec.ofBool s.refillEn ++ BitVec.ofBool s.engEn ++ BitVec.ofBool s.begun

/-- `x[k]`, zero-extended (R32); there is no register above 9. -/
def State.xreg (s : State) : Nat → Option (BitVec 32)
  | 0 => some (s.phase.code.setWidth 32)
  | 1 => some (s.wr.setWidth 32)
  | 2 => some (s.rd.setWidth 32)
  | 3 => some s.srcPtr
  | 4 => some s.remBytes
  | 5 => some (s.remReset.setWidth 32)
  | 6 => some s.engRem
  | 7 => some (s.cmp.setWidth 32)
  | 8 => some (s.ctrl.setWidth 32)
  | 9 => some s.cfg.n
  | _ => none

/-- A TICK can occur (R87). -/
def State.tickEnabled (s : State) : Bool := s.begun && s.refillEn

/-- A CONSUME can occur (R101). -/
def State.consumeEnabled (s : State) : Bool := s.begun && s.engEn && s.engRem != 0

/-- A COMPLETE can occur (R106). -/
def State.completeEnabled (s : State) : Bool := s.begun && s.donePend

/-- START completes at once: it faults, or `N = 0`, or `STATE = Idle` (R74, R117). -/
def State.startEnabled (s : State) (src : Addr) : Bool :=
  !s.begun || s.cfg.n == 0 || s.sourceWraps src || s.phase == .idle

/-- The operation is enabled (R74). -/
def State.enabled (s : State) : Instr → Bool
  | .begin => true
  | .start src => s.startEnabled src
  | .busy => true
  | .rdstate => true
  | .poke _ _ => true
  | .tick => s.tickEnabled
  | .consume => s.consumeEnabled
  | .complete => s.completeEnabled

/-- The Host cannot issue this operation: a START is outstanding and this is not that START (R115, R117, R169). -/
def State.hostBlocked (s : State) (i : Instr) : Bool :=
  match s.outstanding with
  | none => false
  | some src => i.agent == .host && i != .start src

/-- The three fault names (R136). -/
inductive FaultName where
  | underrun
  | contract
  | srcMutation
deriving DecidableEq, Repr

/-- The code of a fault name (R136). -/
def FaultName.code : FaultName → Nat
  | .underrun => 1
  | .contract => 2
  | .srcMutation => 3

/-- The name of a mark (R136). -/
def FaultMark.name : FaultMark → FaultName
  | .underrun _ => .underrun
  | .contract _ => .contract
  | .srcMutation _ => .srcMutation

/-- The name is in FAULT (R29). -/
def State.faulted (s : State) (n : FaultName) : Bool := s.fault.any fun m => m.name == n

end Sys2Proof.Machine
end

