-- ==== Sys2Proof/Machine/Refill.lean ====
section
/-! DEFINITION. The procedure Refill (R81), which the refill interrupt runs and START runs as its prefill. -/

namespace Sys2Proof.Machine

/-- Streaming to ResettingHold (R83). -/
def State.enterHold (s : State) : State :=
  { s with phase := .resettingHold, remReset := BitVec.ofNat 16 Config.resetBits }

/-- ResettingHold to Draining, which disarms the refill interrupt (R85). -/
def State.enterDraining (s : State) : State := { s with phase := .draining, refillEn := false }

/-- The Producer takes one source byte: the pointer and the count (R82). -/
def State.takeByte (s : State) : State := { s with srcPtr := s.srcPtr + 1, remBytes := s.remBytes - 1 }

/-- The Producer counts one reset-hold slot (R84). -/
def State.countZero (s : State) : State := { s with remReset := s.remReset - 1 }

/-- One iteration of the Streaming phase: the eight codes of the byte at SRC_PTR, the byte taken; the last byte enters
ResettingHold (R82, R83). -/
def State.unpackByte (s : State) : State :=
  let t := (s.putSlots (codesOfByte s.cfg (s.readByte s.srcPtr))).takeByte
  if t.remBytes = 0 then t.enterHold else t

/-- One iteration of the ResettingHold phase: a zero slot, counted; the last one enters Draining (R84, R85). -/
def State.putZero (s : State) : State :=
  let t := (s.putSlot Config.zeroCode).countZero
  if t.remReset = 0 then t.enterDraining else t

/-- `while STATE = Streaming and a ≥ 8` (R82): the free slots left and the state. The first argument bounds the
iterations; `a` iterations are more than enough. -/
def streamLoop : Nat → Nat → State → Nat × State
  | 0, a, s => (a, s)
  | bound + 1, a, s =>
    if s.phase = .streaming ∧ Config.bitsPerByte ≤ a then
      streamLoop bound (a - Config.bitsPerByte) s.unpackByte
    else (a, s)

/-- `while STATE = ResettingHold and a ≥ 1` (R84). -/
def holdLoop : Nat → State → State
  | 0, s => s
  | a + 1, s => if s.phase = .resettingHold then holdLoop a s.putZero else s

/-- `Refill()` (R81): `RD` is sampled once, in `avail` (R80, R51). -/
def State.refill (s : State) : State :=
  let streamed := streamLoop s.avail s.avail s
  holdLoop streamed.1 streamed.2

end Sys2Proof.Machine
end

