-- ==== Sys2Proof/Machine/Commands.lean ====
section
/-! DEFINITION. The Host's operations BEGIN, START, BUSY, RDSTATE, POKE (R116 to R124). -/

namespace Sys2Proof.Machine

/-- The one-time initialisation (R116, R161): RING, FAULT and the configuration stay. -/
def State.initialise (s : State) : State :=
  { s with
    phase := .idle
    wr := 0
    rd := 0
    srcPtr := 0
    remBytes := 0
    remReset := 0
    engRem := 0
    engEn := false
    refillEn := false
    donePend := false
    cmp := 0
    produced := 0
    consumed := 0
    out := []
    begun := true }

/-- BEGIN (R116). -/
def execBegin (s : State) : Host.Outcome State Fault Refusal :=
  if s.begun then .next (s.raise (.contract .begin)) else .next s.initialise

/-- S0 to S4 of the start sequence: the tick masked, the source pointer, the state, the counters, the cursors (R119). -/
def State.armProducer (s : State) (src : Addr) : State :=
  { s with
    refillEn := false
    srcPtr := src
    phase := .streaming
    remBytes := BitVec.ofNat 32 s.cfg.totalBytes
    remReset := 0
    wr := 0
    rd := 0
    produced := 0
    consumed := 0 }

/-- S6 to S8 of the start sequence: the Engine's count, its trigger, the refill interrupt (R119). The Host's operation
is complete. -/
def State.armEngine (s : State) : State :=
  { s with
    engRem := BitVec.ofNat 32 s.cfg.totalSlots
    engEn := true
    refillEn := true
    outstanding := none }

/-- The start sequence S0 to S8, one step (R119, R120). -/
def State.startCycle (s : State) (src : Addr) : State := (s.armProducer src).refill.armEngine

/-- START: the five cases of R117 in their order; case 2 is R118, case 5 is R119. -/
def execStart (src : Addr) (s : State) : Host.Outcome State Fault Refusal :=
  if s.begun = false then .next (s.raise (.contract .start))
  else if s.cfg.n = 0 then .next s
  else if s.sourceWraps src then .next (s.raise (.contract .start))
  else if s.phase ≠ .idle then .next (s.hold src)
  else .next (s.startCycle src)

/-- BUSY (R121). -/
def execBusy (s : State) : Host.Outcome State Fault Refusal :=
  if s.begun = false then .next (s.raise (.contract .busy)).deliverFree
  else .next (s.deliver ((BitVec.ofBool s.busy).setWidth 32))

/-- RDSTATE (R122). -/
def execRdstate (s : State) : Host.Outcome State Fault Refusal :=
  if s.begun = false then .next (s.raise (.contract .rdstate)).deliverFree
  else .next (s.deliver (s.phase.code.setWidth 32))

/-- The mark a POKE raises, if any (R123, R124). -/
def State.pokeMark (s : State) (addr : Addr) : State :=
  if s.begun = false then s.raise (.contract .poke)
  else if s.phase = .streaming ∧ s.inSource addr then s.raise (.srcMutation addr)
  else s

/-- POKE: the byte is written in every case (R123). -/
def execPoke (addr : Addr) (data : Byte) (s : State) : Host.Outcome State Fault Refusal :=
  .next ((s.pokeMark addr).writeByte addr data)

end Sys2Proof.Machine
end

