-- ==== Sys2Proof/Machine/Engine.lean ====
section
/-! DEFINITION. The Engine's operation CONSUME (R101 to R105) and the Completer's operation COMPLETE (R106). -/

namespace Sys2Proof.Machine

/-- The ghost test of CONSUME: a slot the Producer has not written in this cycle is an underrun (R105). -/
def State.checkUnderrun (s : State) : State :=
  if s.consumed = s.produced then s.raise (.underrun s.rd) else s

/-- One slot moved from the ring to the compare register (R102). -/
def State.takeSlot (s : State) : State :=
  { s with
    cmp := s.readSlot s.rd
    out := s.out ++ [s.readSlot s.rd]
    rd := cursorNext s.rd
    consumed := s.consumed + 1
    engRem := s.engRem - 1 }

/-- The count at zero raises the completion interrupt (R103). -/
def State.checkDone (s : State) : State := if s.engRem = 0 then { s with donePend := true } else s

/-- CONSUME (R101 to R105). -/
def execConsume (s : State) : Host.Outcome State Fault Refusal :=
  if s.consumeEnabled then .next s.checkUnderrun.takeSlot.checkDone else .refused (.notEnabled "CONSUME")

/-- The work of the completion handler (R106). -/
def State.completeWork (s : State) : State := { s with engEn := false, phase := .idle, donePend := false }

/-- COMPLETE (R106). -/
def execComplete (s : State) : Host.Outcome State Fault Refusal :=
  if s.completeEnabled then .next s.interruptEntry.completeWork.interruptReturn
  else .refused (.notEnabled "COMPLETE")

end Sys2Proof.Machine
end

