-- ==== Sys2Proof/Machine/Producer.lean ====
section
/-! DEFINITION. The Producer's operation TICK (R87, R88). -/

namespace Sys2Proof.Machine

/-- The refill interrupt source disarmed (R88). -/
def State.disarm (s : State) : State := { s with refillEn := false }

/-- The work of one refill interrupt: Draining and Idle only disarm it (R87, R88). -/
def State.tickWork (s : State) : State :=
  if s.phase = .idle ∨ s.phase = .draining then s.disarm else s.refill

/-- TICK (R87, R88). -/
def execTick (s : State) : Host.Outcome State Fault Refusal :=
  if s.tickEnabled then .next s.interruptEntry.tickWork.interruptReturn else .refused (.notEnabled "TICK")

end Sys2Proof.Machine
end

