-- ==== Sys2Proof/Machine/Dispatch.lean ====
section
/-! DEFINITION. One arm per operation of the opcode map (R68). -/

namespace Sys2Proof.Machine

def exec (i : Instr) (s : State) : Host.Outcome State Fault Refusal :=
  match i with
  | .begin => Sys2Proof.Machine.execBegin s
  | .start src => Sys2Proof.Machine.execStart src s
  | .busy => Sys2Proof.Machine.execBusy s
  | .rdstate => Sys2Proof.Machine.execRdstate s
  | .poke addr data => Sys2Proof.Machine.execPoke addr data s
  | .tick => Sys2Proof.Machine.execTick s
  | .consume => Sys2Proof.Machine.execConsume s
  | .complete => Sys2Proof.Machine.execComplete s

end Sys2Proof.Machine
end

