-- ==== Sys2Proof/Machine/Step.lean ====
section
/-! DEFINITION. One step: the next operation word of the schedule, decoded and run (R74). The block has no program
counter (R31); which agent moves next is what the schedule says, and the schedule is any (R144; log 1). -/

namespace Sys2Proof.Machine

/-- One step. An illegal word is refused (R70); a Host word while a START is outstanding is refused (R169). -/
def step (s : State) : Host.Outcome State Fault Refusal :=
  match s.nextWord with
  | none => .fault .scheduleEnd
  | some (w, t) =>
    match decode w with
    | .error e => .refused (.illegal e)
    | .ok i => if t.hostBlocked i then .refused .hostBlocked else exec i t

/-- The state with the instruction whose bits are `w` put where `step` takes its next operation word; the words that
were there follow it. -/
def State.withFetchWord (s : State) (nbits w : Nat) : State := s.putWord (wordOfBits nbits w)

end Sys2Proof.Machine
end

