-- ==== Sys2Proof/Machine/Output.lean ====
section
/-! DEFINITION. What the observer sees on the one-wire line (R66, R108): a function of the codes loaded, with no time. -/

namespace Sys2Proof.Machine

/-- The line in the protocol bit slot of a code: high for `code` counts from the start of the slot, low for the rest of
`PERIOD`; the spec describes no line for a code at or above `PERIOD` (R108; log 14). -/
def slotPulse (c : Config) (v : Code) : Pulse :=
  if v.toNat < c.period.toNat then ⟨v.toNat, c.period.toNat - v.toNat⟩ else Config.overlongPulse v c.period

/-- The pulse train of the slots emitted so far (R28, R108). -/
def State.wire (s : State) : List Pulse := s.out.map (slotPulse s.cfg)

/-- The pulse of the current slot: CMP keeps its last value while no code is loaded (R18, R108). -/
def State.line (s : State) : Pulse := slotPulse s.cfg s.cmp

/-- What a slot says on the wire (R66). -/
inductive WireSymbol where
  | one
  | zero
  | low
deriving DecidableEq, Repr

/-- The meaning of a code on the wire; only the Producer's three codes have one (R61, R66). -/
def wireSymbol (c : Config) (v : Code) : Option WireSymbol :=
  if v = c.longCode then some .one
  else if v = c.shortCode then some .zero
  else if v = Config.zeroCode then some .low
  else none

end Sys2Proof.Machine
end

