-- ==== Sys2Proof/Machine/Schedule.lean ====
section
/-! DEFINITION. Schedules (R74): running a list of operations, when a list is a run, and the pseudo-operations (R72). -/

namespace Sys2Proof.Machine

/-- Run operations in order, stopping at the first that has no next state. -/
def execAll : List Instr → State → Host.Outcome State Fault Refusal
  | [], s => .next s
  | i :: rest, s =>
    match exec i s with
    | .next t => execAll rest t
    | .fault r => .fault r
    | .refused r => .refused r

/-- The operations are a run from the state: each is enabled where it stands (R74). -/
def isRun : List Instr → State → Bool
  | [], _ => true
  | i :: rest, s =>
    s.enabled i &&
      match exec i s with
      | .next t => isRun rest t
      | .fault _ => false
      | .refused _ => false

/-- A pseudo-operation, or an operation as it stands (R72). -/
inductive Pseudo where
  | op (i : Instr)
  | consumeTimes (k : Nat)
  | waitIdle
  | transmit (src : Addr)
  | transmit2 (front back : Addr)
deriving DecidableEq, Repr

/-- An element of an expansion: an operation, or a point at which the schedule requires a condition on STATE (R72). -/
inductive Item where
  | op (i : Instr)
  /-- `STATE = Idle` must hold here. -/
  | idleHere
  /-- `STATE ≠ Streaming` must hold here. -/
  | notStreamingHere
deriving DecidableEq, Repr

/-- The copy of the front store to the back store as POKEs, with the bytes of this state (R72, R125). -/
def State.copyPokes (s : State) (front back : Addr) : List Instr :=
  (List.range s.cfg.totalBytes).map fun k =>
    .poke (back + BitVec.ofNat 32 k) (s.readByte (front + BitVec.ofNat 32 k))

/-- The expansion of a pseudo-operation that stands at this state (R72). -/
def State.expand (s : State) : Pseudo → List Item
  | .op i => [.op i]
  | .consumeTimes k => List.replicate k (.op .consume)
  | .waitIdle => [.idleHere]
  | .transmit src => if s.cfg.n = 0 then [] else [.idleHere, .op (.start src)]
  | .transmit2 front back =>
    if s.cfg.n = 0 then []
    else .notStreamingHere :: (s.copyPokes front back).map .op ++ [.idleHere, .op (.start back)]

/-- Run an expansion; `none` where a required condition fails, which is an error of the schedule (R72), or an operation
has no next state. -/
def execItems : List Item → State → Option State
  | [], s => some s
  | .op i :: rest, s =>
    match exec i s with
    | .next t => execItems rest t
    | .fault _ => none
    | .refused _ => none
  | .idleHere :: rest, s => if s.phase = .idle then execItems rest s else none
  | .notStreamingHere :: rest, s => if s.phase ≠ .streaming then execItems rest s else none

end Sys2Proof.Machine
end

