-- ==== Sys2Proof/Safety.lean ====
section
/-! DEFINITION. What the claims are stated with: the frame of a cycle (R64), a final state (R174), the invariants of R171,
the refill rate as a premise on a run (R166). -/

namespace Sys2Proof.Machine

/-- `FRAME(src, N)` of the bytes of this state: the codes of the `3·N` source bytes in ascending address order, then
`RESET_BITS` zero codes (R64). -/
def State.frame (s : State) (src : Addr) : List Code :=
  ((List.range s.cfg.totalBytes).flatMap fun k => codesOfByte s.cfg (Memory.read s.mem (src.toNat + k))) ++
    List.replicate Config.resetBits Config.zeroCode

/-- The word is a Host operation. -/
def isHostWord (w : OpWord) : Bool :=
  match decode w with
  | .ok i => i.agent == .host
  | .error _ => false

/-- The end of a run (R174): the Host has nothing outstanding or left to issue, the registers are at rest, no fault. -/
def State.final (s : State) : Bool :=
  s.outstanding == none && !s.schedule.any isHostWord && s.phase == .idle && !s.refillEn && !s.engEn && !s.donePend &&
    s.fault.isEmpty

/-- UNDERRUN is in FAULT (R29, R105). -/
def State.underrun (s : State) : Bool := s.faulted .underrun

/-- The slots the Producer has written and the Engine has not read, in a cycle without underrun (R27, R35). -/
def State.unread (s : State) : Nat := s.produced - s.consumed

/-- The invariants of R171 for a block that has been begun, by item number; the unnumbered fields are what the numbered
ones need to be kept by every step. -/
structure State.CycleInv (s : State) : Prop where
  /-- Item 1. -/
  idleAtRest : s.phase = .idle → s.engEn = false ∧ s.donePend = false
  /-- Item 2. -/
  doneStopped : s.donePend = true → s.engEn = true ∧ s.engRem = 0
  /-- Item 3. -/
  engineCount : s.engEn = true → s.engRem.toNat + s.consumed = s.cfg.totalSlots
  /-- Item 4. -/
  writeCursor : s.wr.toNat = s.produced % Config.cap
  /-- Item 4. -/
  readCursor : s.rd.toNat = s.consumed % Config.cap
  /-- Item 5. -/
  streamingCount : s.phase = .streaming →
    1 ≤ s.remBytes.toNat ∧ s.remBytes.toNat ≤ s.cfg.totalBytes ∧
      s.produced = 8 * (s.cfg.totalBytes - s.remBytes.toNat)
  /-- Item 6. -/
  holdCount : s.phase = .resettingHold →
    s.remBytes = 0 ∧ 1 ≤ s.remReset.toNat ∧ s.remReset.toNat ≤ Config.resetBits ∧
      s.produced = 8 * s.cfg.totalBytes + (Config.resetBits - s.remReset.toNat)
  /-- Item 7. -/
  drainingCount : s.phase = .draining → s.remBytes = 0 ∧ s.remReset = 0 ∧ s.produced = s.cfg.totalSlots
  /-- Items 8 and 9 (R35). -/
  ahead : s.underrun = false → s.consumed ≤ s.produced ∧ s.produced ≤ s.consumed + (Config.cap - 1)
  /-- Item 10. -/
  bounded : s.consumed ≤ s.cfg.totalSlots ∧ s.produced ≤ s.cfg.totalSlots
  /-- Item 11: in Streaming the region of the cycle lies in the source byte space and SRC_PTR is inside it. -/
  sourceRegion : s.phase = .streaming →
    0 ≤ s.sourceBase ∧ s.sourceBase + s.cfg.totalBytes ≤ 2 ^ 32
  /-- Item 12. -/
  atRest : s.underrun = false → s.phase = .idle →
    (s.produced = 0 ∧ s.consumed = 0 ∨ s.produced = s.cfg.totalSlots ∧ s.consumed = s.cfg.totalSlots) ∧
      s.remBytes = 0 ∧ s.remReset = 0 ∧ s.cmp = Config.zeroCode
  /-- The Engine is triggered throughout a cycle (R22). -/
  running : s.phase ≠ .idle → s.engEn = true
  /-- A triggered Engine with no slot left has raised its interrupt (R103). -/
  doneRaised : s.engEn = true → s.engRem = 0 → s.donePend = true
  /-- With no LED no cycle starts (R118). -/
  ledlessIdle : s.cfg.n = 0 → s.phase = .idle
  /-- The unread slots after the data slots hold the zero code (R64). -/
  zeroTail : s.underrun = false → ∀ k, s.consumed ≤ k → k < s.produced → 8 * s.cfg.totalBytes ≤ k →
    s.readSlot (BitVec.ofNat 7 k) = Config.zeroCode
  /-- Once a reset-hold slot has been emitted the line is low (R18). -/
  lowTail : s.underrun = false → s.engEn = true → 8 * s.cfg.totalBytes < s.consumed → s.cmp = Config.zeroCode

/-- The invariant of every state (R171): before BEGIN nothing is claimed (R160). -/
def State.Inv (s : State) : Prop := s.begun = true → s.CycleInv

/-- The CONSUMEs since the last Refill run after this operation, given the count before it (R166): CONSUMEs count while
STATE is Streaming or ResettingHold; a TICK there and the prefill of a START are Refill runs. -/
def State.gapAfter (s : State) (gap : Nat) : Instr → Nat
  | .consume => if s.phase.producing then gap + 1 else gap
  | .tick => if s.phase.producing then 0 else gap
  | .start _ => if s.phase = .idle then 0 else gap
  | .begin => gap
  | .busy => gap
  | .rdstate => gap
  | .poke _ _ => gap
  | .complete => gap

/-- At most `bound` CONSUMEs between Refill runs, from a state where `gap` have occurred since the last one (R166). -/
def paced (bound : Nat) : Nat → State → List Instr → Bool
  | _, _, [] => true
  | gap, s, i :: rest =>
    decide (s.gapAfter gap i ≤ bound) &&
      match exec i s with
      | .next t => paced bound (s.gapAfter gap i) t rest
      | .fault _ => true
      | .refused _ => true

end Sys2Proof.Machine
end

