-- ==== Sys2Proof/Certificates/Slice0/Obligations.lean ====
section
/-! DEFINITION. The statements for the provers, one per rule or group of rules of spec/; OBLIGATIONS.json lists them. -/

open Sys2Proof Sys2Proof.Machine

/-! ## Encoding and step -/

/-- The decode vectors of 95_test_vectors.md section 2.1: legal words and words refused by name (R67, R68, R70). -/
def Obligations.SpecWordsDecode : Prop :=
  decode 0x010000000000 = .ok .begin ∧
  decode 0x020000100000 = .ok (.start 0x00001000) ∧
  decode 0x02FFFFFFFD00 = .ok (.start 0xFFFFFFFD) ∧
  decode 0x030000000000 = .ok .busy ∧
  decode 0x040000000000 = .ok .rdstate ∧
  decode 0x0500001000A5 = .ok (.poke 0x00001000 0xA5) ∧
  decode 0x05FFFFFFFFFF = .ok (.poke 0xFFFFFFFF 0xFF) ∧
  decode 0x100000000000 = .ok .tick ∧
  decode 0x200000000000 = .ok .consume ∧
  decode 0x210000000000 = .ok .complete ∧
  decode 0x000000000000 = .error .unassignedOpc ∧
  decode 0x010000000001 = .error .operandBNotZero ∧
  decode 0x020000100001 = .error .operandBNotZero ∧
  decode 0x03FFFFFFFF00 = .error .operandANotZero ∧
  decode 0x060000000000 = .error .unassignedOpc ∧
  decode 0x100000000100 = .error .operandANotZero ∧
  decode 0x220000000000 = .error .unassignedOpc ∧
  decode 0xFFFFFFFFFFFF = .error .unassignedOpc

/-- Decoding the word of any operation gives it back, with every operand at every value (R67 to R69). -/
def Obligations.DecodeOfEncode : Prop := ∀ i : Instr, decode (encode i) = .ok i

/-- A legal word is the word of the operation it decodes to: no two words stand for one operation (R67, R68). -/
def Obligations.EncodeOfDecode : Prop := ∀ (w : OpWord) (i : Instr), decode w = .ok i → encode i = w

/-- R70: a word is legal iff it matches a row of the opcode map; every other word is refused by `step`, which gives no
next state. -/
def Obligations.LegalIffRowMatches : Prop :=
  ∀ w : OpWord,
    ((∃ i, decode w = .ok i) ↔ ∃ r ∈ opcodeMap, w &&& r.mask = r.pattern) ∧
    ((¬ ∃ r ∈ opcodeMap, w &&& r.mask = r.pattern) →
      ∀ (s : State) (rest : List OpWord), s.schedule = w :: rest → ∃ e, step s = .refused (.illegal e))

/-- R68: no word selects two rows, and the row a word selects names the operation it decodes to. -/
def Obligations.RowsNameTheOperation : Prop :=
  ∀ (w : OpWord) (r : OpRow), r ∈ opcodeMap → w &&& r.mask = r.pattern →
    (∀ r' ∈ opcodeMap, w &&& r'.mask = r'.pattern → r' = r) ∧
    ∃ i, decode w = .ok i ∧ i.mnemonic = r.mnemonic

/-- A step runs the operation the next word decodes to, on the state without that word, unless the Host is blocked; with
no word left it stops (the schedule is the model's form of R74: log 1, 2, 4). -/
def Obligations.StepRunsDecodedOperation : Prop :=
  (∀ (s : State) (w : OpWord) (rest : List OpWord) (i : Instr), s.schedule = w :: rest → decode w = .ok i →
    State.hostBlocked s i = false → step s = exec i { s with schedule := rest }) ∧
  (∀ (s : State) (i : Instr), State.hostBlocked s i = false →
    step (s.withFetchWord 48 (encode i).toNat) = exec i s) ∧
  (∀ s : State, s.schedule = [] → step s = .fault .scheduleEnd)

/-- While a START is outstanding the Host issues nothing else, and the other agents step (R115, R117 case 4, R169; the
refusal is the model's, log 4). -/
def Obligations.OutstandingStartBlocksHost : Prop :=
  ∀ (s : State) (src : Addr) (i : Instr), s.outstanding = some src →
    (i.agent = .host → i ≠ .start src → step (s.withFetchWord 48 (encode i).toNat) = .refused .hostBlocked) ∧
    (i.agent ≠ .host ∨ i = .start src → step (s.withFetchWord 48 (encode i).toNat) = exec i s)

/-- R74, R87, R101, R106: when each event can occur; a disabled event has no step (its refusal is the model's, log 3); the
Host's BEGIN, BUSY, RDSTATE and POKE always step. -/
def Obligations.EventsStepExactlyWhenEnabled : Prop :=
  ∀ s : State,
    ((∃ t, exec .tick s = .next t) ↔ s.begun = true ∧ s.refillEn = true) ∧
    ((∃ t, exec .consume s = .next t) ↔ s.begun = true ∧ s.engEn = true ∧ 0 < s.engRem.toNat) ∧
    ((∃ t, exec .complete s = .next t) ↔ s.begun = true ∧ s.donePend = true) ∧
    (¬ (s.begun = true ∧ s.refillEn = true) → exec .tick s = .refused (.notEnabled "TICK")) ∧
    (¬ (s.begun = true ∧ s.engEn = true ∧ 0 < s.engRem.toNat) →
      exec .consume s = .refused (.notEnabled "CONSUME")) ∧
    (¬ (s.begun = true ∧ s.donePend = true) → exec .complete s = .refused (.notEnabled "COMPLETE")) ∧
    (∃ t, exec .begin s = .next t) ∧ (∃ t, exec .busy s = .next t) ∧ (∃ t, exec .rdstate s = .next t) ∧
    (∀ addr data, ∃ t, exec (.poke addr data) s = .next t)

/-! ## Power-on and BEGIN -/

/-- R160: at power-on BEGUN is 0, FAULT and OUT are empty; while BEGUN is 0 no event is enabled; what BEGIN leaves does
not depend on any register, cursor or counter the power-on state leaves unspecified. That an event that is not enabled is
refused by the name `notEnabled` is the model's form (log 3). -/
def Obligations.PowerOnDefinesOnlyBegun : Prop :=
  (State.reset.begun = false ∧ State.reset.fault = [] ∧ State.reset.out = []) ∧
  (∀ s : State, s.begun = false →
    exec .tick s = .refused (.notEnabled "TICK") ∧ exec .consume s = .refused (.notEnabled "CONSUME") ∧
      exec .complete s = .refused (.notEnabled "COMPLETE")) ∧
  (∀ s u : State, s.begun = false → u.begun = false → u.cfg = s.cfg → u.ring = s.ring → u.mem = s.mem →
    u.fault = s.fault → u.result = s.result → u.freeCount = s.freeCount → u.outstanding = s.outstanding →
    u.schedule = s.schedule → exec .begin u = exec .begin s)

/-- R116: BEGIN, first and second call; what is not named keeps its value (RING, FAULT, the configuration). -/
def Obligations.BeginInitialisesOnce : Prop :=
  ∀ s : State,
    (s.begun = true → exec .begin s = .next { s with fault := addMark s.fault (.contract .begin) }) ∧
    (s.begun = false →
      exec .begin s =
        .next { s with
          phase := .idle, wr := 0, rd := 0, srcPtr := 0, remBytes := 0, remReset := 0, engRem := 0, engEn := false,
          refillEn := false, donePend := false, cmp := 0, produced := 0, consumed := 0, out := [], begun := true })

/-! ## START -/

/-- R117, R118: the five cases of START in their order. Case 4 leaves the START outstanding and changes nothing else
(log 4); case 5 is the start sequence S0 to S8 of R119, whose Refill is R81's, after which no START is outstanding (log 4). -/
def Obligations.StartFollowsItsCases : Prop :=
  ∀ (src : Addr) (s : State),
    (s.begun = false → exec (.start src) s = .next { s with fault := addMark s.fault (.contract .start) }) ∧
    (s.begun = true → s.cfg.n = 0 → exec (.start src) s = .next s) ∧
    (s.begun = true → s.cfg.n ≠ 0 → 2 ^ 32 < src.toNat + 3 * s.cfg.n.toNat →
      exec (.start src) s = .next { s with fault := addMark s.fault (.contract .start) }) ∧
    (s.begun = true → s.cfg.n ≠ 0 → src.toNat + 3 * s.cfg.n.toNat ≤ 2 ^ 32 → s.phase ≠ .idle →
      exec (.start src) s = .next { s with outstanding := some src }) ∧
    (s.begun = true → s.cfg.n ≠ 0 → src.toNat + 3 * s.cfg.n.toNat ≤ 2 ^ 32 → s.phase = .idle →
      exec (.start src) s =
        .next {
          State.refill { s with
            refillEn := false, srcPtr := src, phase := .streaming, remBytes := BitVec.ofNat 32 (3 * s.cfg.n.toNat),
            remReset := 0, wr := 0, rd := 0, produced := 0, consumed := 0 } with
          engRem := BitVec.ofNat 32 (24 * s.cfg.n.toNat + 40), engEn := true, refillEn := true, outstanding := none })

/-- The corner-case table of R119 for every `N` (the spec marks it derived): what START leaves when it steps, with the
prefill's bytes `min(3N, 15)` and zero slots, and everything it does not write; `outstanding` is the model's (log 4). -/
def Obligations.StartPrefillsTheRing : Prop :=
  ∀ (src : Addr) (s : State), s.begun = true → s.cfg.n ≠ 0 → src.toNat + 3 * s.cfg.n.toNat ≤ 2 ^ 32 →
    s.phase = .idle →
    ∃ t, exec (.start src) s = .next t ∧
      let bytes := min (3 * s.cfg.n.toNat) 15
      let zeros := if 3 * s.cfg.n.toNat ≤ 15 then min 40 (127 - 24 * s.cfg.n.toNat) else 0
      t.phase = (if 15 < 3 * s.cfg.n.toNat then .streaming else if zeros < 40 then .resettingHold else .draining) ∧
      t.wr.toNat = 8 * bytes + zeros ∧ t.rd = 0 ∧ t.produced = 8 * bytes + zeros ∧ t.consumed = 0 ∧
      t.srcPtr = src + BitVec.ofNat 32 bytes ∧
      t.remBytes.toNat = 3 * s.cfg.n.toNat - bytes ∧
      t.remReset.toNat = (if 3 * s.cfg.n.toNat ≤ 15 then 40 - zeros else 0) ∧
      t.engRem.toNat = 24 * s.cfg.n.toNat + 40 ∧ t.engEn = true ∧ t.refillEn = true ∧ t.outstanding = none ∧
      (∀ j < 8 * bytes + zeros, (s.frame src)[j]? = some (t.readSlot (BitVec.ofNat 7 j))) ∧
      (∀ j < 128, 8 * bytes + zeros ≤ j → t.readSlot (BitVec.ofNat 7 j) = s.readSlot (BitVec.ofNat 7 j)) ∧
      t.cmp = s.cmp ∧ t.out = s.out ∧ t.mem = s.mem ∧ t.cfg = s.cfg ∧ t.begun = s.begun ∧
      t.donePend = s.donePend ∧ t.fault = s.fault ∧ t.result = s.result ∧ t.freeCount = s.freeCount ∧
      t.schedule = s.schedule

/-- R117 case 4, R107: a START held in a running cycle is released by COMPLETE and then steps. That a held START answers a
next state with `outstanding` set, and that the START that steps after COMPLETE is the same operation issued again, is the
model's choice (log 4). -/
def Obligations.HeldStartIsReleasedByComplete : Prop :=
  ∀ (src : Addr) (s : State), s.begun = true → s.cfg.n ≠ 0 → src.toNat + 3 * s.cfg.n.toNat ≤ 2 ^ 32 →
    s.phase ≠ .idle → s.donePend = true →
    ∃ held idle t, exec (.start src) s = .next held ∧ held.outstanding = some src ∧
      exec .complete held = .next idle ∧ idle.outstanding = some src ∧ idle.phase = .idle ∧
      exec (.start src) idle = .next t ∧ t.outstanding = none ∧ t.engEn = true ∧ t.phase ≠ .idle

/-! ## The Producer -/

/-- R80: AVAIL is `(RD − WR − 1) mod CAP`, computed in the integers; 127 with `WR = RD`, 0 with `WR = RD − 1`. -/
def Obligations.AvailIsFreeSpace : Prop :=
  ∀ s : State,
    (s.avail : Int) = ((s.rd.toNat : Int) - s.wr.toNat - 1) % 128 ∧
    (s.wr = s.rd → s.avail = 127) ∧ (s.wr = s.rd - 1 → s.avail = 0)

/-- R87: an enabled TICK runs Refill once, except in Idle and Draining, where it only disarms. -/
def Obligations.TickRunsOneRefill : Prop :=
  ∀ s : State, s.begun = true → s.refillEn = true →
    exec .tick s = .next (if s.phase = .idle ∨ s.phase = .draining then { s with refillEn := false } else s.refill)

/-- R88: a TICK that finds Draining or Idle only clears REFILL_EN, after which no TICK occurs until the next START: no
other operation sets it. That a TICK that is not enabled is refused by the name `notEnabled` is the model's form (log 3). -/
def Obligations.TickAtRestDisarms : Prop :=
  (∀ s : State, s.begun = true → s.refillEn = true → (s.phase = .draining ∨ s.phase = .idle) →
    exec .tick s = .next { s with refillEn := false } ∧
    exec .tick { s with refillEn := false } = .refused (.notEnabled "TICK")) ∧
  (∀ (i : Instr) (s t : State), exec i s = .next t → s.refillEn = false → t.refillEn = true →
    ∃ src, i = .start src)

/-- R82, R83, R86: a TICK in Streaming unpacks `min(REM_BYTES, AVAIL/8)` bytes (the count is marked derived in R82); the
last byte goes on with zero slots in the same run, and the fortieth enters Draining. -/
def Obligations.TickUnpacksBytes : Prop :=
  ∀ s : State, s.begun = true → s.refillEn = true → s.phase = .streaming → 1 ≤ s.remBytes.toNat →
    ∃ t, exec .tick s = .next t ∧
      let bytes := min s.remBytes.toNat (s.avail / 8)
      let last := bytes = s.remBytes.toNat
      let zeros := if last then min 40 (s.avail - 8 * bytes) else 0
      t.srcPtr = s.srcPtr + BitVec.ofNat 32 bytes ∧
      t.remBytes.toNat = s.remBytes.toNat - bytes ∧
      t.wr = s.wr + BitVec.ofNat 7 (8 * bytes + zeros) ∧
      t.produced = s.produced + 8 * bytes + zeros ∧
      t.phase = (if last then if zeros = 40 then .draining else .resettingHold else .streaming) ∧
      t.remReset = (if last then BitVec.ofNat 16 (40 - zeros) else s.remReset) ∧
      t.refillEn = (if last ∧ zeros = 40 then false else true) ∧
      (∀ j < 8 * bytes, t.readSlot (s.wr + BitVec.ofNat 7 j) =
        if (s.readByte (s.srcPtr + BitVec.ofNat 32 (j / 8))).getLsbD (7 - j % 8) then s.cfg.longCode
        else s.cfg.shortCode) ∧
      (∀ j < zeros, t.readSlot (s.wr + BitVec.ofNat 7 (8 * bytes + j)) = 0x0000) ∧
      (∀ j < 128, 8 * bytes + zeros ≤ j →
        t.readSlot (s.wr + BitVec.ofNat 7 j) = s.readSlot (s.wr + BitVec.ofNat 7 j))

/-- R84, R85: a TICK in ResettingHold writes `min(REM_RESET, AVAIL)` zero slots; when none is left it enters Draining and
disarms the refill interrupt. -/
def Obligations.TickWritesResetHold : Prop :=
  ∀ s : State, s.begun = true → s.refillEn = true → s.phase = .resettingHold → 1 ≤ s.remReset.toNat →
    ∃ t, exec .tick s = .next t ∧
      let zeros := min s.remReset.toNat s.avail
      t.remReset.toNat = s.remReset.toNat - zeros ∧
      t.wr = s.wr + BitVec.ofNat 7 zeros ∧ t.produced = s.produced + zeros ∧
      t.phase = (if s.remReset.toNat ≤ s.avail then .draining else .resettingHold) ∧
      t.refillEn = (if s.remReset.toNat ≤ s.avail then false else true) ∧
      t.srcPtr = s.srcPtr ∧ t.remBytes = s.remBytes ∧
      (∀ j < zeros, t.readSlot (s.wr + BitVec.ofNat 7 j) = 0x0000) ∧
      (∀ j < 128, zeros ≤ j → t.readSlot (s.wr + BitVec.ofNat 7 j) = s.readSlot (s.wr + BitVec.ofNat 7 j))

/-- R87 corner cases, R56: with no room the Producer does not wait: the TICK steps and changes nothing. -/
def Obligations.TickWithoutRoomChangesNothing : Prop :=
  ∀ s : State, s.begun = true → s.refillEn = true →
    (s.phase = .streaming ∧ s.avail < 8 ∨ s.phase = .resettingHold ∧ s.avail = 0) → exec .tick s = .next s

/-- R90, R35 (derived in the spec): a run writes at most AVAIL slots, none of them a slot the Engine has still to read, nor
the one slot kept free before the read cursor. -/
def Obligations.RefillNeverOverruns : Prop :=
  ∀ s t : State, exec .tick s = .next t →
    s.produced ≤ t.produced ∧ t.produced - s.produced ≤ s.avail ∧
    ∀ d < 128, s.avail ≤ d → t.readSlot (s.wr + BitVec.ofNat 7 d) = s.readSlot (s.wr + BitVec.ofNat 7 d)

/-- R81: what a TICK never writes. -/
def Obligations.TickFrame : Prop :=
  ∀ s t : State, exec .tick s = .next t →
    t.rd = s.rd ∧ t.engRem = s.engRem ∧ t.engEn = s.engEn ∧ t.donePend = s.donePend ∧ t.cmp = s.cmp ∧
    t.begun = s.begun ∧ t.cfg = s.cfg ∧ t.mem = s.mem ∧ (∀ a, t.readByte a = s.readByte a) ∧
    t.consumed = s.consumed ∧ t.out = s.out ∧ t.fault = s.fault ∧ t.result = s.result ∧
    t.freeCount = s.freeCount ∧ t.outstanding = s.outstanding ∧ t.schedule = s.schedule

/-- R93, the source's worked example: one byte 0xA5 into an empty ring, the transition to ResettingHold with 40 slots to
go, then the 40 zero slots and Draining. -/
def Obligations.WorkedExampleA5 : Prop :=
  ∀ s : State, s.phase = .streaming → s.remBytes = 1 → s.readByte s.srcPtr = 0xA5 → s.wr = s.rd →
    (∃ u, streamLoop s.avail s.avail s = (119, u) ∧ u.remBytes = 0 ∧ u.phase = .resettingHold ∧ u.remReset = 40 ∧
      u.wr = s.wr + 8 ∧ s.refill = holdLoop 119 u) ∧
    (List.range 8).map (fun j => s.refill.readSlot (s.wr + BitVec.ofNat 7 j)) =
      [s.cfg.longCode, s.cfg.shortCode, s.cfg.longCode, s.cfg.shortCode, s.cfg.shortCode, s.cfg.longCode,
        s.cfg.shortCode, s.cfg.longCode] ∧
    (∀ j < 40, s.refill.readSlot (s.wr + BitVec.ofNat 7 (8 + j)) = 0x0000) ∧
    s.refill.phase = .draining ∧ s.refill.remReset = 0 ∧ s.refill.remBytes = 0 ∧ s.refill.refillEn = false ∧
    (s.begun = true → s.refillEn = true → exec .tick s = .next s.refill)

/-! ## The Engine and the Completer -/

/-- R102, R103, R105: a CONSUME moves the slot at RD to CMP and OUT; at the count's end it raises DONE_PEND; a slot not
written in this cycle is marked UNDERRUN; nothing else changes. -/
def Obligations.ConsumeMovesOneSlot : Prop :=
  ∀ s : State, s.begun = true → s.engEn = true → 0 < s.engRem.toNat →
    exec .consume s =
      .next { s with
        cmp := s.readSlot s.rd
        out := s.out ++ [s.readSlot s.rd]
        rd := BitVec.ofNat 7 ((s.rd.toNat + 1) % 128)
        consumed := s.consumed + 1
        engRem := BitVec.ofNat 32 (s.engRem.toNat - 1)
        donePend := if s.engRem.toNat = 1 then true else s.donePend
        fault := if s.consumed = s.produced then addMark s.fault (.underrun s.rd) else s.fault }

/-- R104: with ENG_REM = 0 no CONSUME is enabled, even while ENG_EN is still 1. That a CONSUME that is not enabled is refused
by the name `notEnabled` is the model's form (log 3). -/
def Obligations.EngineStopsAtZeroCount : Prop :=
  ∀ s : State, s.engRem = 0 → exec .consume s = .refused (.notEnabled "CONSUME")

/-- R106: COMPLETE stops the Engine's triggering, writes Idle whatever STATE was, and acknowledges; nothing else. -/
def Obligations.CompleteReturnsToIdle : Prop :=
  ∀ s : State, s.begun = true → s.donePend = true →
    exec .complete s = .next { s with engEn := false, phase := .idle, donePend := false }

/-- R106 corner case (derived in the spec): without UNDERRUN the completion interrupt finds Draining, with every slot of
the cycle produced and consumed. -/
def Obligations.CompletionFindsDraining : Prop :=
  ∀ s : State, s.CycleInv → s.underrun = false → s.donePend = true →
    s.phase = .draining ∧ s.consumed = 24 * s.cfg.n.toNat + 40 ∧ s.produced = 24 * s.cfg.n.toNat + 40

/-- R107: after BEGIN only COMPLETE re-enters Idle, so without it a START stays held for ever. That a held START answers a next
state with `outstanding` set is the model's choice (log 4). -/
def Obligations.OnlyCompleteReentersIdle : Prop :=
  (∀ (i : Instr) (s t : State), s.begun = true → exec i s = .next t → s.phase ≠ .idle → t.phase = .idle →
    i = .complete) ∧
  (∀ (ops : List Instr) (s t : State) (src : Addr), s.begun = true → s.phase ≠ .idle → .complete ∉ ops →
    execAll ops s = .next t → s.cfg.n ≠ 0 → src.toNat + 3 * s.cfg.n.toNat ≤ 2 ^ 32 →
    t.phase ≠ .idle ∧ exec (.start src) t = .next { t with outstanding := some src })

/-! ## The Host's queries and writes -/

/-- R121, R26: BUSY delivers 1 iff STATE is Streaming and changes no state; before BEGIN it marks CONTRACT and delivers a
free value (log 10). -/
def Obligations.BusyAnswersStreaming : Prop :=
  ∀ s : State,
    (s.begun = true → exec .busy s = .next { s with result := if s.phase = .streaming then 1 else 0 }) ∧
    (s.begun = false →
      exec .busy s =
        .next { s with
          fault := addMark s.fault (.contract .busy), result := Config.freeResult s.freeCount,
          freeCount := s.freeCount + 1 })

/-- R122, R65: RDSTATE delivers the code of STATE and changes no state; before BEGIN it marks CONTRACT and delivers a free
value (log 10). -/
def Obligations.RdstateAnswersState : Prop :=
  ∀ s : State,
    (s.begun = true →
      exec .rdstate s =
        .next { s with
          result :=
            match s.phase with
            | .idle => 0
            | .streaming => 1
            | .resettingHold => 2
            | .draining => 3 }) ∧
    (s.begun = false →
      exec .rdstate s =
        .next { s with
          fault := addMark s.fault (.contract .rdstate), result := Config.freeResult s.freeCount,
          freeCount := s.freeCount + 1 })

/-- R123, R42: POKE writes its byte in every case and no other byte; besides the byte only FAULT may change. The canonical form in the
premise is the model's (log 8). -/
def Obligations.PokeWritesOneByte : Prop :=
  ∀ (addr : Addr) (data : Byte) (s : State), Memory.wf s.mem = true →
    ∃ t, exec (.poke addr data) s = .next t ∧ t.readByte addr = data ∧
      (∀ b, b ≠ addr → t.readByte b = s.readByte b) ∧ t = { s with mem := t.mem, fault := t.fault }

/-- R123, R138, R139: which mark a POKE raises: CONTRACT before BEGIN; SRC_MUTATION in Streaming for an address of the
running cycle's region, counted from `base = SRC_PTR − (3N − REM_BYTES)`; otherwise none. -/
def Obligations.PokeMarksMutation : Prop :=
  ∀ (addr : Addr) (data : Byte) (s t : State), exec (.poke addr data) s = .next t →
    let base : Int := s.srcPtr.toNat - (3 * s.cfg.n.toNat - s.remBytes.toNat)
    t.fault =
      if s.begun = false then addMark s.fault (.contract .poke)
      else if s.phase = .streaming ∧ base ≤ addr.toNat ∧ (addr.toNat : Int) < base + 3 * s.cfg.n.toNat then
        addMark s.fault (.srcMutation addr)
      else s.fault

/-- R72, R125: the copy of TRANSMIT2, made when STATE is not Streaming, leaves the front store's bytes in the back store
and raises no fault. R72 does not bound the two regions: that the addresses wrap modulo `2^32` is the model's choice (log 17),
as is the canonical form of the source bytes in the premise (log 8). -/
def Obligations.TransmitCopiesTheFrontStore : Prop :=
  ∀ (s : State) (front back : Addr), s.begun = true → s.phase ≠ .streaming → Memory.wf s.mem = true →
    ∃ t, execAll (s.copyPokes front back) s = .next t ∧ t = { s with mem := t.mem } ∧
      ∀ k < 3 * s.cfg.n.toNat,
        t.readByte (back + BitVec.ofNat 32 k) = s.readByte (front + BitVec.ofNat 32 k)

/-! ## Whole-machine rules -/

/-- R136, R138: the marks each operation raises, and no others; FAULT as a list is the model's form (log 16). -/
def Obligations.MarksRaisedExactly : Prop :=
  ∀ (i : Instr) (s t : State), exec i s = .next t →
    t.fault =
      match i with
      | .begin => if s.begun = true then addMark s.fault (.contract .begin) else s.fault
      | .start src =>
        if s.begun = false ∨ s.cfg.n ≠ 0 ∧ 2 ^ 32 < src.toNat + 3 * s.cfg.n.toNat then
          addMark s.fault (.contract .start)
        else s.fault
      | .busy => if s.begun = false then addMark s.fault (.contract .busy) else s.fault
      | .rdstate => if s.begun = false then addMark s.fault (.contract .rdstate) else s.fault
      | .poke addr _ =>
        if s.begun = false then addMark s.fault (.contract .poke)
        else if s.phase = .streaming ∧ s.inSource addr = true then addMark s.fault (.srcMutation addr)
        else s.fault
      | .tick => s.fault
      | .consume => if s.consumed = s.produced then addMark s.fault (.underrun s.rd) else s.fault
      | .complete => s.fault

/-- R29: FAULT is empty at power-on and sticky: no step removes a mark, not BEGIN and not START; and it is a set, so adding
a mark adds that mark and nothing else. -/
def Obligations.FaultIsSticky : Prop :=
  State.reset.fault = [] ∧
  (∀ (s t : State) (m : FaultMark), step s = .next t → m ∈ s.fault → m ∈ t.fault) ∧
  (∀ (marks : List FaultMark) (m m' : FaultMark), m' ∈ addMark marks m ↔ m' ∈ marks ∨ m' = m)

/-- R30 and the summary table of 10_state.md: the operations that may change each element; no other does. -/
def Obligations.EachElementHasItsWriters : Prop :=
  ∀ (i : Instr) (s t : State), exec i s = .next t →
    (t.phase ≠ s.phase → i = .begin ∨ i = .tick ∨ i = .complete ∨ ∃ src, i = .start src) ∧
    (t.wr ≠ s.wr ∨ t.srcPtr ≠ s.srcPtr ∨ t.remBytes ≠ s.remBytes ∨ t.remReset ≠ s.remReset ∨
      t.produced ≠ s.produced ∨ t.refillEn ≠ s.refillEn → i = .begin ∨ i = .tick ∨ ∃ src, i = .start src) ∧
    (t.rd ≠ s.rd ∨ t.engRem ≠ s.engRem ∨ t.consumed ≠ s.consumed →
      i = .begin ∨ i = .consume ∨ ∃ src, i = .start src) ∧
    (t.cmp ≠ s.cmp ∨ t.out ≠ s.out → i = .begin ∨ i = .consume) ∧
    (t.engEn ≠ s.engEn → i = .begin ∨ i = .complete ∨ ∃ src, i = .start src) ∧
    (t.donePend ≠ s.donePend → i = .begin ∨ i = .consume ∨ i = .complete) ∧
    (t.begun ≠ s.begun → i = .begin) ∧
    (t.ring ≠ s.ring → i = .tick ∨ ∃ src, i = .start src) ∧
    (t.mem ≠ s.mem → ∃ addr data, i = .poke addr data) ∧
    (t.result ≠ s.result ∨ t.freeCount ≠ s.freeCount → i = .busy ∨ i = .rdstate) ∧
    (t.outstanding ≠ s.outstanding → ∃ src, i = .start src) ∧
    t.cfg = s.cfg ∧ t.schedule = s.schedule

/-- R20: the transitions of STATE after BEGIN. START and TICK are one step each (R89, R120), so one of them may pass
through several transitions, forward only; without UNDERRUN COMPLETE leaves from Draining. -/
def Obligations.StateMovesForward : Prop :=
  ∀ (i : Instr) (s t : State), s.begun = true → exec i s = .next t → t.phase ≠ s.phase →
    ((∃ src, i = .start src) ∧ s.phase = .idle ∨
      i = .tick ∧ s.phase = .streaming ∧ (t.phase = .resettingHold ∨ t.phase = .draining) ∨
      i = .tick ∧ s.phase = .resettingHold ∧ t.phase = .draining ∨
      i = .complete ∧ t.phase = .idle) ∧
    (i = .complete → s.CycleInv → s.underrun = false → s.phase = .draining)

/-- R14, R171 item 11 (derived in the spec): START puts the first byte of the cycle at its operand, and no operation moves
it while STATE stays Streaming. -/
def Obligations.CycleBaseStays : Prop :=
  (∀ (src : Addr) (s t : State), s.begun = true → s.cfg.n ≠ 0 → s.phase = .idle → exec (.start src) s = .next t →
    t.phase = .streaming → t.sourceBase = src.toNat) ∧
  (∀ (i : Instr) (s t : State), s.begun = true → s.CycleInv → exec i s = .next t → s.phase = .streaming →
    t.phase = .streaming → t.sourceBase = s.sourceBase)

/-- R118 (derived in the spec): with no LED a begun block at rest stays at rest in every run, and emits nothing. -/
def Obligations.LedlessBlockStaysIdle : Prop :=
  ∀ (ops : List Instr) (s t : State), s.begun = true → s.cfg.n = 0 → s.phase = .idle → s.engEn = false →
    s.refillEn = false → s.donePend = false → execAll ops s = .next t →
    t.phase = .idle ∧ t.engEn = false ∧ t.refillEn = false ∧ t.donePend = false ∧ t.out = s.out ∧ t.ring = s.ring

/-- The model's form of the data, kept by every step from every state: the source bytes in canonical form (log 8), FAULT
without repeats (log 16). -/
def Obligations.StateFormIsKept : Prop :=
  ∀ s t : State, step s = .next t → Memory.wf s.mem = true → s.fault.Nodup →
    Memory.wf t.mem = true ∧ t.fault.Nodup

/-- R171 (derived in the spec): every step from every state keeps the invariants. -/
def Obligations.CycleInvariantIsKept : Prop := ∀ s t : State, step s = .next t → s.Inv → t.Inv

/-- R171, R161: the state after reset meets the invariant and the forms, and BEGIN establishes the invariants of R171 from
any power-on state. -/
def Obligations.ResetMeetsTheInvariant : Prop :=
  State.reset.Inv ∧ Memory.wf State.reset.mem = true ∧ State.reset.fault.Nodup ∧
  ∀ s : State, s.begun = false → ∃ t, exec .begin s = .next t ∧ t.begun = true ∧ t.CycleInv

/-- R166 (derived in the spec): without UNDERRUN a Refill run that ends in Streaming leaves at least 120 unread slots, one
that ends in ResettingHold 127; the prefill of START counts as a run. -/
def Obligations.RefillLeavesRingAhead : Prop :=
  ∀ (i : Instr) (s t : State), s.begun = true → s.CycleInv → s.underrun = false → exec i s = .next t →
    (i = .tick ∨ (∃ src, i = .start src) ∧ s.phase = .idle) →
    (t.phase = .streaming → t.consumed + 120 ≤ t.produced) ∧
    (t.phase = .resettingHold → t.produced = t.consumed + 127)

/-- R166 (derived in the spec): if at most 64 CONSUMEs, and even if at most 120, separate consecutive Refill runs, no run
from rest raises UNDERRUN, whatever the other operations and their order. -/
def Obligations.PacedRunNeverUnderruns : Prop :=
  ∀ (bound : Nat) (ops : List Instr) (s t : State), bound ≤ 120 → s.begun = true → s.CycleInv →
    s.underrun = false → s.phase = .idle → paced bound 0 s ops = true → execAll ops s = .next t →
    t.underrun = false

/-- R172 (derived in the spec): a cycle ends when its events occur: ENG_REM CONSUMEs and one COMPLETE lead to Idle, even if
the Producer never runs. -/
def Obligations.CycleEndsWhenEventsOccur : Prop :=
  ∀ s : State, s.begun = true → s.CycleInv → s.phase ≠ .idle →
    ∃ t, execAll (List.replicate s.engRem.toNat .consume ++ [.complete]) s = .next t ∧
      t.phase = .idle ∧ t.engEn = false ∧ t.donePend = false ∧ t.engRem = 0

/-- R63, R64: the frame, code by code: bit `7 − j mod 8` of byte `j / 8` for the data slots, then 40 zero codes. -/
def Obligations.FrameIsMsbFirst : Prop :=
  ∀ (s : State) (src : Addr),
    (s.frame src).length = 24 * s.cfg.n.toNat + 40 ∧
    (∀ j < 24 * s.cfg.n.toNat, (s.frame src)[j]? =
      some (if (Memory.read s.mem (src.toNat + j / 8)).getLsbD (7 - j % 8) then s.cfg.longCode
        else s.cfg.shortCode)) ∧
    (∀ j, 24 * s.cfg.n.toNat ≤ j → j < 24 * s.cfg.n.toNat + 40 → (s.frame src)[j]? = some 0x0000)

/-- R175 (derived in the spec), what a cycle emits: from a START that steps to the COMPLETE that returns to Idle, whatever
operations stand between, if FAULT is empty at the end then the codes appended to OUT are FRAME(src, N) of the source
bytes when the START stepped. The canonical form in the premise is the model's (log 8). -/
def Obligations.CycleEmitsFrame : Prop :=
  ∀ (s u t : State) (src : Addr) (ops : List Instr), s.begun = true → s.CycleInv → Memory.wf s.mem = true →
    s.phase = .idle → s.cfg.n ≠ 0 → src.toNat + 3 * s.cfg.n.toNat ≤ 2 ^ 32 → exec (.start src) s = .next u →
    .complete ∉ ops → execAll (ops ++ [.complete]) u = .next t → t.fault = [] →
    t.phase = .idle ∧ t.out = s.out ++ s.frame src

/-! ## Parameters and the line -/

/-- R140, R5: a configuration is admitted iff it meets every constraint, with its values unchanged. -/
def Obligations.ConfigurationAdmission : Prop :=
  ∀ r : RawConfig,
    ((∃ c, r.configure = .ok c) ↔
      r.speed = .fast ∧ 0 < r.shortCode ∧ r.shortCode < r.longCode ∧ r.longCode < r.period ∧ r.period ≤ 0xFFFF ∧
        24 * r.n + 40 ≤ 2 ^ 32 - 1) ∧
    ∀ c, r.configure = .ok c →
      c.n.toNat = r.n ∧ c.longCode.toNat = r.longCode ∧ c.shortCode.toNat = r.shortCode ∧ c.period.toNat = r.period

/-- R110, R94: the counts of every admitted configuration fit 32 bits, and the slots armed are those of the frame. -/
def Obligations.CountsFitTheirRegisters : Prop :=
  ∀ c : Config,
    (BitVec.ofNat 32 c.totalBytes).toNat = 3 * c.n.toNat ∧ (BitVec.ofNat 32 c.totalSlots).toNat = 24 * c.n.toNat + 40 ∧
      c.totalSlots = 8 * c.totalBytes + 40

/-- R108: a slot is high for its code's counts and low for the rest of the period; the zero code is low throughout; the
Producer's codes give a high and a low part within the slot. -/
def Obligations.SlotPulseFillsThePeriod : Prop :=
  ∀ c : Config,
    (∀ v : Code, v.toNat < c.period.toNat → slotPulse c v = ⟨v.toNat, c.period.toNat - v.toNat⟩) ∧
    slotPulse c 0x0000 = ⟨0, c.period.toNat⟩ ∧
    (slotPulse c c.shortCode).high < (slotPulse c c.longCode).high ∧
    0 < (slotPulse c c.shortCode).high ∧ 0 < (slotPulse c c.longCode).low ∧
    (slotPulse c c.longCode).high + (slotPulse c c.longCode).low = c.period.toNat ∧
    (slotPulse c c.shortCode).high + (slotPulse c c.shortCode).low = c.period.toNat
end

