-- ==== Sys2Proof/Laws/State.lean ====
section
/-! SUPPORT. One lemma per field and named update: what the update does to the field. -/

namespace Sys2Proof.Machine

section writeByte

variable (s : State) (a : Addr) (v : Byte)

@[simp] theorem State.writeByte_phase : (s.writeByte a v).phase = s.phase := rfl
@[simp] theorem State.writeByte_wr : (s.writeByte a v).wr = s.wr := rfl
@[simp] theorem State.writeByte_rd : (s.writeByte a v).rd = s.rd := rfl
@[simp] theorem State.writeByte_srcPtr : (s.writeByte a v).srcPtr = s.srcPtr := rfl
@[simp] theorem State.writeByte_remBytes : (s.writeByte a v).remBytes = s.remBytes := rfl
@[simp] theorem State.writeByte_remReset : (s.writeByte a v).remReset = s.remReset := rfl
@[simp] theorem State.writeByte_engRem : (s.writeByte a v).engRem = s.engRem := rfl
@[simp] theorem State.writeByte_cmp : (s.writeByte a v).cmp = s.cmp := rfl
@[simp] theorem State.writeByte_begun : (s.writeByte a v).begun = s.begun := rfl
@[simp] theorem State.writeByte_engEn : (s.writeByte a v).engEn = s.engEn := rfl
@[simp] theorem State.writeByte_refillEn : (s.writeByte a v).refillEn = s.refillEn := rfl
@[simp] theorem State.writeByte_donePend : (s.writeByte a v).donePend = s.donePend := rfl
@[simp] theorem State.writeByte_cfg : (s.writeByte a v).cfg = s.cfg := rfl
@[simp] theorem State.writeByte_ring : (s.writeByte a v).ring = s.ring := rfl
@[simp] theorem State.writeByte_mem : (s.writeByte a v).mem = Memory.write s.mem a.toNat v := rfl
@[simp] theorem State.writeByte_produced : (s.writeByte a v).produced = s.produced := rfl
@[simp] theorem State.writeByte_consumed : (s.writeByte a v).consumed = s.consumed := rfl
@[simp] theorem State.writeByte_out : (s.writeByte a v).out = s.out := rfl
@[simp] theorem State.writeByte_fault : (s.writeByte a v).fault = s.fault := rfl
@[simp] theorem State.writeByte_result : (s.writeByte a v).result = s.result := rfl
@[simp] theorem State.writeByte_freeCount : (s.writeByte a v).freeCount = s.freeCount := rfl
@[simp] theorem State.writeByte_outstanding : (s.writeByte a v).outstanding = s.outstanding := rfl
@[simp] theorem State.writeByte_schedule : (s.writeByte a v).schedule = s.schedule := rfl

end writeByte

section writeSlot

variable (s : State) (i : Cursor) (v : Code)

@[simp] theorem State.writeSlot_phase : (s.writeSlot i v).phase = s.phase := rfl
@[simp] theorem State.writeSlot_wr : (s.writeSlot i v).wr = s.wr := rfl
@[simp] theorem State.writeSlot_rd : (s.writeSlot i v).rd = s.rd := rfl
@[simp] theorem State.writeSlot_srcPtr : (s.writeSlot i v).srcPtr = s.srcPtr := rfl
@[simp] theorem State.writeSlot_remBytes : (s.writeSlot i v).remBytes = s.remBytes := rfl
@[simp] theorem State.writeSlot_remReset : (s.writeSlot i v).remReset = s.remReset := rfl
@[simp] theorem State.writeSlot_engRem : (s.writeSlot i v).engRem = s.engRem := rfl
@[simp] theorem State.writeSlot_cmp : (s.writeSlot i v).cmp = s.cmp := rfl
@[simp] theorem State.writeSlot_begun : (s.writeSlot i v).begun = s.begun := rfl
@[simp] theorem State.writeSlot_engEn : (s.writeSlot i v).engEn = s.engEn := rfl
@[simp] theorem State.writeSlot_refillEn : (s.writeSlot i v).refillEn = s.refillEn := rfl
@[simp] theorem State.writeSlot_donePend : (s.writeSlot i v).donePend = s.donePend := rfl
@[simp] theorem State.writeSlot_cfg : (s.writeSlot i v).cfg = s.cfg := rfl
@[simp] theorem State.writeSlot_ring : (s.writeSlot i v).ring = s.ring.set i.toNat (some v) i.isLt := rfl
@[simp] theorem State.writeSlot_mem : (s.writeSlot i v).mem = s.mem := rfl
@[simp] theorem State.writeSlot_produced : (s.writeSlot i v).produced = s.produced := rfl
@[simp] theorem State.writeSlot_consumed : (s.writeSlot i v).consumed = s.consumed := rfl
@[simp] theorem State.writeSlot_out : (s.writeSlot i v).out = s.out := rfl
@[simp] theorem State.writeSlot_fault : (s.writeSlot i v).fault = s.fault := rfl
@[simp] theorem State.writeSlot_result : (s.writeSlot i v).result = s.result := rfl
@[simp] theorem State.writeSlot_freeCount : (s.writeSlot i v).freeCount = s.freeCount := rfl
@[simp] theorem State.writeSlot_outstanding : (s.writeSlot i v).outstanding = s.outstanding := rfl
@[simp] theorem State.writeSlot_schedule : (s.writeSlot i v).schedule = s.schedule := rfl

end writeSlot

section putSlot

variable (s : State) (v : Code)

@[simp] theorem State.putSlot_phase : (s.putSlot v).phase = s.phase := rfl
@[simp] theorem State.putSlot_wr : (s.putSlot v).wr = cursorNext s.wr := rfl
@[simp] theorem State.putSlot_rd : (s.putSlot v).rd = s.rd := rfl
@[simp] theorem State.putSlot_srcPtr : (s.putSlot v).srcPtr = s.srcPtr := rfl
@[simp] theorem State.putSlot_remBytes : (s.putSlot v).remBytes = s.remBytes := rfl
@[simp] theorem State.putSlot_remReset : (s.putSlot v).remReset = s.remReset := rfl
@[simp] theorem State.putSlot_engRem : (s.putSlot v).engRem = s.engRem := rfl
@[simp] theorem State.putSlot_cmp : (s.putSlot v).cmp = s.cmp := rfl
@[simp] theorem State.putSlot_begun : (s.putSlot v).begun = s.begun := rfl
@[simp] theorem State.putSlot_engEn : (s.putSlot v).engEn = s.engEn := rfl
@[simp] theorem State.putSlot_refillEn : (s.putSlot v).refillEn = s.refillEn := rfl
@[simp] theorem State.putSlot_donePend : (s.putSlot v).donePend = s.donePend := rfl
@[simp] theorem State.putSlot_cfg : (s.putSlot v).cfg = s.cfg := rfl
@[simp] theorem State.putSlot_ring : (s.putSlot v).ring = s.ring.set s.wr.toNat (some v) s.wr.isLt := rfl
@[simp] theorem State.putSlot_mem : (s.putSlot v).mem = s.mem := rfl
@[simp] theorem State.putSlot_produced : (s.putSlot v).produced = s.produced + 1 := rfl
@[simp] theorem State.putSlot_consumed : (s.putSlot v).consumed = s.consumed := rfl
@[simp] theorem State.putSlot_out : (s.putSlot v).out = s.out := rfl
@[simp] theorem State.putSlot_fault : (s.putSlot v).fault = s.fault := rfl
@[simp] theorem State.putSlot_result : (s.putSlot v).result = s.result := rfl
@[simp] theorem State.putSlot_freeCount : (s.putSlot v).freeCount = s.freeCount := rfl
@[simp] theorem State.putSlot_outstanding : (s.putSlot v).outstanding = s.outstanding := rfl
@[simp] theorem State.putSlot_schedule : (s.putSlot v).schedule = s.schedule := rfl

end putSlot

section raise

variable (s : State) (m : FaultMark)

@[simp] theorem State.raise_phase : (s.raise m).phase = s.phase := rfl
@[simp] theorem State.raise_wr : (s.raise m).wr = s.wr := rfl
@[simp] theorem State.raise_rd : (s.raise m).rd = s.rd := rfl
@[simp] theorem State.raise_srcPtr : (s.raise m).srcPtr = s.srcPtr := rfl
@[simp] theorem State.raise_remBytes : (s.raise m).remBytes = s.remBytes := rfl
@[simp] theorem State.raise_remReset : (s.raise m).remReset = s.remReset := rfl
@[simp] theorem State.raise_engRem : (s.raise m).engRem = s.engRem := rfl
@[simp] theorem State.raise_cmp : (s.raise m).cmp = s.cmp := rfl
@[simp] theorem State.raise_begun : (s.raise m).begun = s.begun := rfl
@[simp] theorem State.raise_engEn : (s.raise m).engEn = s.engEn := rfl
@[simp] theorem State.raise_refillEn : (s.raise m).refillEn = s.refillEn := rfl
@[simp] theorem State.raise_donePend : (s.raise m).donePend = s.donePend := rfl
@[simp] theorem State.raise_cfg : (s.raise m).cfg = s.cfg := rfl
@[simp] theorem State.raise_ring : (s.raise m).ring = s.ring := rfl
@[simp] theorem State.raise_mem : (s.raise m).mem = s.mem := rfl
@[simp] theorem State.raise_produced : (s.raise m).produced = s.produced := rfl
@[simp] theorem State.raise_consumed : (s.raise m).consumed = s.consumed := rfl
@[simp] theorem State.raise_out : (s.raise m).out = s.out := rfl
@[simp] theorem State.raise_fault : (s.raise m).fault = addMark s.fault m := rfl
@[simp] theorem State.raise_result : (s.raise m).result = s.result := rfl
@[simp] theorem State.raise_freeCount : (s.raise m).freeCount = s.freeCount := rfl
@[simp] theorem State.raise_outstanding : (s.raise m).outstanding = s.outstanding := rfl
@[simp] theorem State.raise_schedule : (s.raise m).schedule = s.schedule := rfl

end raise

section deliver

variable (s : State) (v : BitVec 32)

@[simp] theorem State.deliver_phase : (s.deliver v).phase = s.phase := rfl
@[simp] theorem State.deliver_wr : (s.deliver v).wr = s.wr := rfl
@[simp] theorem State.deliver_rd : (s.deliver v).rd = s.rd := rfl
@[simp] theorem State.deliver_srcPtr : (s.deliver v).srcPtr = s.srcPtr := rfl
@[simp] theorem State.deliver_remBytes : (s.deliver v).remBytes = s.remBytes := rfl
@[simp] theorem State.deliver_remReset : (s.deliver v).remReset = s.remReset := rfl
@[simp] theorem State.deliver_engRem : (s.deliver v).engRem = s.engRem := rfl
@[simp] theorem State.deliver_cmp : (s.deliver v).cmp = s.cmp := rfl
@[simp] theorem State.deliver_begun : (s.deliver v).begun = s.begun := rfl
@[simp] theorem State.deliver_engEn : (s.deliver v).engEn = s.engEn := rfl
@[simp] theorem State.deliver_refillEn : (s.deliver v).refillEn = s.refillEn := rfl
@[simp] theorem State.deliver_donePend : (s.deliver v).donePend = s.donePend := rfl
@[simp] theorem State.deliver_cfg : (s.deliver v).cfg = s.cfg := rfl
@[simp] theorem State.deliver_ring : (s.deliver v).ring = s.ring := rfl
@[simp] theorem State.deliver_mem : (s.deliver v).mem = s.mem := rfl
@[simp] theorem State.deliver_produced : (s.deliver v).produced = s.produced := rfl
@[simp] theorem State.deliver_consumed : (s.deliver v).consumed = s.consumed := rfl
@[simp] theorem State.deliver_out : (s.deliver v).out = s.out := rfl
@[simp] theorem State.deliver_fault : (s.deliver v).fault = s.fault := rfl
@[simp] theorem State.deliver_result : (s.deliver v).result = v := rfl
@[simp] theorem State.deliver_freeCount : (s.deliver v).freeCount = s.freeCount := rfl
@[simp] theorem State.deliver_outstanding : (s.deliver v).outstanding = s.outstanding := rfl
@[simp] theorem State.deliver_schedule : (s.deliver v).schedule = s.schedule := rfl

end deliver

section deliverFree

variable (s : State)

@[simp] theorem State.deliverFree_phase : s.deliverFree.phase = s.phase := rfl
@[simp] theorem State.deliverFree_wr : s.deliverFree.wr = s.wr := rfl
@[simp] theorem State.deliverFree_rd : s.deliverFree.rd = s.rd := rfl
@[simp] theorem State.deliverFree_srcPtr : s.deliverFree.srcPtr = s.srcPtr := rfl
@[simp] theorem State.deliverFree_remBytes : s.deliverFree.remBytes = s.remBytes := rfl
@[simp] theorem State.deliverFree_remReset : s.deliverFree.remReset = s.remReset := rfl
@[simp] theorem State.deliverFree_engRem : s.deliverFree.engRem = s.engRem := rfl
@[simp] theorem State.deliverFree_cmp : s.deliverFree.cmp = s.cmp := rfl
@[simp] theorem State.deliverFree_begun : s.deliverFree.begun = s.begun := rfl
@[simp] theorem State.deliverFree_engEn : s.deliverFree.engEn = s.engEn := rfl
@[simp] theorem State.deliverFree_refillEn : s.deliverFree.refillEn = s.refillEn := rfl
@[simp] theorem State.deliverFree_donePend : s.deliverFree.donePend = s.donePend := rfl
@[simp] theorem State.deliverFree_cfg : s.deliverFree.cfg = s.cfg := rfl
@[simp] theorem State.deliverFree_ring : s.deliverFree.ring = s.ring := rfl
@[simp] theorem State.deliverFree_mem : s.deliverFree.mem = s.mem := rfl
@[simp] theorem State.deliverFree_produced : s.deliverFree.produced = s.produced := rfl
@[simp] theorem State.deliverFree_consumed : s.deliverFree.consumed = s.consumed := rfl
@[simp] theorem State.deliverFree_out : s.deliverFree.out = s.out := rfl
@[simp] theorem State.deliverFree_fault : s.deliverFree.fault = s.fault := rfl
@[simp] theorem State.deliverFree_result : s.deliverFree.result = Config.freeResult s.freeCount := rfl
@[simp] theorem State.deliverFree_freeCount : s.deliverFree.freeCount = s.freeCount + 1 := rfl
@[simp] theorem State.deliverFree_outstanding : s.deliverFree.outstanding = s.outstanding := rfl
@[simp] theorem State.deliverFree_schedule : s.deliverFree.schedule = s.schedule := rfl

end deliverFree

section hold

variable (s : State) (src : Addr)

@[simp] theorem State.hold_phase : (s.hold src).phase = s.phase := rfl
@[simp] theorem State.hold_wr : (s.hold src).wr = s.wr := rfl
@[simp] theorem State.hold_rd : (s.hold src).rd = s.rd := rfl
@[simp] theorem State.hold_srcPtr : (s.hold src).srcPtr = s.srcPtr := rfl
@[simp] theorem State.hold_remBytes : (s.hold src).remBytes = s.remBytes := rfl
@[simp] theorem State.hold_remReset : (s.hold src).remReset = s.remReset := rfl
@[simp] theorem State.hold_engRem : (s.hold src).engRem = s.engRem := rfl
@[simp] theorem State.hold_cmp : (s.hold src).cmp = s.cmp := rfl
@[simp] theorem State.hold_begun : (s.hold src).begun = s.begun := rfl
@[simp] theorem State.hold_engEn : (s.hold src).engEn = s.engEn := rfl
@[simp] theorem State.hold_refillEn : (s.hold src).refillEn = s.refillEn := rfl
@[simp] theorem State.hold_donePend : (s.hold src).donePend = s.donePend := rfl
@[simp] theorem State.hold_cfg : (s.hold src).cfg = s.cfg := rfl
@[simp] theorem State.hold_ring : (s.hold src).ring = s.ring := rfl
@[simp] theorem State.hold_mem : (s.hold src).mem = s.mem := rfl
@[simp] theorem State.hold_produced : (s.hold src).produced = s.produced := rfl
@[simp] theorem State.hold_consumed : (s.hold src).consumed = s.consumed := rfl
@[simp] theorem State.hold_out : (s.hold src).out = s.out := rfl
@[simp] theorem State.hold_fault : (s.hold src).fault = s.fault := rfl
@[simp] theorem State.hold_result : (s.hold src).result = s.result := rfl
@[simp] theorem State.hold_freeCount : (s.hold src).freeCount = s.freeCount := rfl
@[simp] theorem State.hold_outstanding : (s.hold src).outstanding = some src := rfl
@[simp] theorem State.hold_schedule : (s.hold src).schedule = s.schedule := rfl

end hold

section putWord

variable (s : State) (w : OpWord)

@[simp] theorem State.putWord_phase : (s.putWord w).phase = s.phase := rfl
@[simp] theorem State.putWord_wr : (s.putWord w).wr = s.wr := rfl
@[simp] theorem State.putWord_rd : (s.putWord w).rd = s.rd := rfl
@[simp] theorem State.putWord_srcPtr : (s.putWord w).srcPtr = s.srcPtr := rfl
@[simp] theorem State.putWord_remBytes : (s.putWord w).remBytes = s.remBytes := rfl
@[simp] theorem State.putWord_remReset : (s.putWord w).remReset = s.remReset := rfl
@[simp] theorem State.putWord_engRem : (s.putWord w).engRem = s.engRem := rfl
@[simp] theorem State.putWord_cmp : (s.putWord w).cmp = s.cmp := rfl
@[simp] theorem State.putWord_begun : (s.putWord w).begun = s.begun := rfl
@[simp] theorem State.putWord_engEn : (s.putWord w).engEn = s.engEn := rfl
@[simp] theorem State.putWord_refillEn : (s.putWord w).refillEn = s.refillEn := rfl
@[simp] theorem State.putWord_donePend : (s.putWord w).donePend = s.donePend := rfl
@[simp] theorem State.putWord_cfg : (s.putWord w).cfg = s.cfg := rfl
@[simp] theorem State.putWord_ring : (s.putWord w).ring = s.ring := rfl
@[simp] theorem State.putWord_mem : (s.putWord w).mem = s.mem := rfl
@[simp] theorem State.putWord_produced : (s.putWord w).produced = s.produced := rfl
@[simp] theorem State.putWord_consumed : (s.putWord w).consumed = s.consumed := rfl
@[simp] theorem State.putWord_out : (s.putWord w).out = s.out := rfl
@[simp] theorem State.putWord_fault : (s.putWord w).fault = s.fault := rfl
@[simp] theorem State.putWord_result : (s.putWord w).result = s.result := rfl
@[simp] theorem State.putWord_freeCount : (s.putWord w).freeCount = s.freeCount := rfl
@[simp] theorem State.putWord_outstanding : (s.putWord w).outstanding = s.outstanding := rfl
@[simp] theorem State.putWord_schedule : (s.putWord w).schedule = w :: s.schedule := rfl

end putWord

section interruptEntry

variable (s : State)

@[simp] theorem State.interruptEntry_phase : s.interruptEntry.phase = s.phase := rfl
@[simp] theorem State.interruptEntry_wr : s.interruptEntry.wr = s.wr := rfl
@[simp] theorem State.interruptEntry_rd : s.interruptEntry.rd = s.rd := rfl
@[simp] theorem State.interruptEntry_srcPtr : s.interruptEntry.srcPtr = s.srcPtr := rfl
@[simp] theorem State.interruptEntry_remBytes : s.interruptEntry.remBytes = s.remBytes := rfl
@[simp] theorem State.interruptEntry_remReset : s.interruptEntry.remReset = s.remReset := rfl
@[simp] theorem State.interruptEntry_engRem : s.interruptEntry.engRem = s.engRem := rfl
@[simp] theorem State.interruptEntry_cmp : s.interruptEntry.cmp = s.cmp := rfl
@[simp] theorem State.interruptEntry_begun : s.interruptEntry.begun = s.begun := rfl
@[simp] theorem State.interruptEntry_engEn : s.interruptEntry.engEn = s.engEn := rfl
@[simp] theorem State.interruptEntry_refillEn : s.interruptEntry.refillEn = s.refillEn := rfl
@[simp] theorem State.interruptEntry_donePend : s.interruptEntry.donePend = s.donePend := rfl
@[simp] theorem State.interruptEntry_cfg : s.interruptEntry.cfg = s.cfg := rfl
@[simp] theorem State.interruptEntry_ring : s.interruptEntry.ring = s.ring := rfl
@[simp] theorem State.interruptEntry_mem : s.interruptEntry.mem = s.mem := rfl
@[simp] theorem State.interruptEntry_produced : s.interruptEntry.produced = s.produced := rfl
@[simp] theorem State.interruptEntry_consumed : s.interruptEntry.consumed = s.consumed := rfl
@[simp] theorem State.interruptEntry_out : s.interruptEntry.out = s.out := rfl
@[simp] theorem State.interruptEntry_fault : s.interruptEntry.fault = s.fault := rfl
@[simp] theorem State.interruptEntry_result : s.interruptEntry.result = s.result := rfl
@[simp] theorem State.interruptEntry_freeCount : s.interruptEntry.freeCount = s.freeCount := rfl
@[simp] theorem State.interruptEntry_outstanding : s.interruptEntry.outstanding = s.outstanding := rfl
@[simp] theorem State.interruptEntry_schedule : s.interruptEntry.schedule = s.schedule := rfl

end interruptEntry

section interruptReturn

variable (s : State)

@[simp] theorem State.interruptReturn_phase : s.interruptReturn.phase = s.phase := rfl
@[simp] theorem State.interruptReturn_wr : s.interruptReturn.wr = s.wr := rfl
@[simp] theorem State.interruptReturn_rd : s.interruptReturn.rd = s.rd := rfl
@[simp] theorem State.interruptReturn_srcPtr : s.interruptReturn.srcPtr = s.srcPtr := rfl
@[simp] theorem State.interruptReturn_remBytes : s.interruptReturn.remBytes = s.remBytes := rfl
@[simp] theorem State.interruptReturn_remReset : s.interruptReturn.remReset = s.remReset := rfl
@[simp] theorem State.interruptReturn_engRem : s.interruptReturn.engRem = s.engRem := rfl
@[simp] theorem State.interruptReturn_cmp : s.interruptReturn.cmp = s.cmp := rfl
@[simp] theorem State.interruptReturn_begun : s.interruptReturn.begun = s.begun := rfl
@[simp] theorem State.interruptReturn_engEn : s.interruptReturn.engEn = s.engEn := rfl
@[simp] theorem State.interruptReturn_refillEn : s.interruptReturn.refillEn = s.refillEn := rfl
@[simp] theorem State.interruptReturn_donePend : s.interruptReturn.donePend = s.donePend := rfl
@[simp] theorem State.interruptReturn_cfg : s.interruptReturn.cfg = s.cfg := rfl
@[simp] theorem State.interruptReturn_ring : s.interruptReturn.ring = s.ring := rfl
@[simp] theorem State.interruptReturn_mem : s.interruptReturn.mem = s.mem := rfl
@[simp] theorem State.interruptReturn_produced : s.interruptReturn.produced = s.produced := rfl
@[simp] theorem State.interruptReturn_consumed : s.interruptReturn.consumed = s.consumed := rfl
@[simp] theorem State.interruptReturn_out : s.interruptReturn.out = s.out := rfl
@[simp] theorem State.interruptReturn_fault : s.interruptReturn.fault = s.fault := rfl
@[simp] theorem State.interruptReturn_result : s.interruptReturn.result = s.result := rfl
@[simp] theorem State.interruptReturn_freeCount : s.interruptReturn.freeCount = s.freeCount := rfl
@[simp] theorem State.interruptReturn_outstanding : s.interruptReturn.outstanding = s.outstanding := rfl
@[simp] theorem State.interruptReturn_schedule : s.interruptReturn.schedule = s.schedule := rfl

end interruptReturn

section enterHold

variable (s : State)

@[simp] theorem State.enterHold_phase : s.enterHold.phase = .resettingHold := rfl
@[simp] theorem State.enterHold_wr : s.enterHold.wr = s.wr := rfl
@[simp] theorem State.enterHold_rd : s.enterHold.rd = s.rd := rfl
@[simp] theorem State.enterHold_srcPtr : s.enterHold.srcPtr = s.srcPtr := rfl
@[simp] theorem State.enterHold_remBytes : s.enterHold.remBytes = s.remBytes := rfl
@[simp] theorem State.enterHold_remReset : s.enterHold.remReset = 40 := rfl
@[simp] theorem State.enterHold_engRem : s.enterHold.engRem = s.engRem := rfl
@[simp] theorem State.enterHold_cmp : s.enterHold.cmp = s.cmp := rfl
@[simp] theorem State.enterHold_begun : s.enterHold.begun = s.begun := rfl
@[simp] theorem State.enterHold_engEn : s.enterHold.engEn = s.engEn := rfl
@[simp] theorem State.enterHold_refillEn : s.enterHold.refillEn = s.refillEn := rfl
@[simp] theorem State.enterHold_donePend : s.enterHold.donePend = s.donePend := rfl
@[simp] theorem State.enterHold_cfg : s.enterHold.cfg = s.cfg := rfl
@[simp] theorem State.enterHold_ring : s.enterHold.ring = s.ring := rfl
@[simp] theorem State.enterHold_mem : s.enterHold.mem = s.mem := rfl
@[simp] theorem State.enterHold_produced : s.enterHold.produced = s.produced := rfl
@[simp] theorem State.enterHold_consumed : s.enterHold.consumed = s.consumed := rfl
@[simp] theorem State.enterHold_out : s.enterHold.out = s.out := rfl
@[simp] theorem State.enterHold_fault : s.enterHold.fault = s.fault := rfl
@[simp] theorem State.enterHold_result : s.enterHold.result = s.result := rfl
@[simp] theorem State.enterHold_freeCount : s.enterHold.freeCount = s.freeCount := rfl
@[simp] theorem State.enterHold_outstanding : s.enterHold.outstanding = s.outstanding := rfl
@[simp] theorem State.enterHold_schedule : s.enterHold.schedule = s.schedule := rfl

end enterHold

section enterDraining

variable (s : State)

@[simp] theorem State.enterDraining_phase : s.enterDraining.phase = .draining := rfl
@[simp] theorem State.enterDraining_wr : s.enterDraining.wr = s.wr := rfl
@[simp] theorem State.enterDraining_rd : s.enterDraining.rd = s.rd := rfl
@[simp] theorem State.enterDraining_srcPtr : s.enterDraining.srcPtr = s.srcPtr := rfl
@[simp] theorem State.enterDraining_remBytes : s.enterDraining.remBytes = s.remBytes := rfl
@[simp] theorem State.enterDraining_remReset : s.enterDraining.remReset = s.remReset := rfl
@[simp] theorem State.enterDraining_engRem : s.enterDraining.engRem = s.engRem := rfl
@[simp] theorem State.enterDraining_cmp : s.enterDraining.cmp = s.cmp := rfl
@[simp] theorem State.enterDraining_begun : s.enterDraining.begun = s.begun := rfl
@[simp] theorem State.enterDraining_engEn : s.enterDraining.engEn = s.engEn := rfl
@[simp] theorem State.enterDraining_refillEn : s.enterDraining.refillEn = false := rfl
@[simp] theorem State.enterDraining_donePend : s.enterDraining.donePend = s.donePend := rfl
@[simp] theorem State.enterDraining_cfg : s.enterDraining.cfg = s.cfg := rfl
@[simp] theorem State.enterDraining_ring : s.enterDraining.ring = s.ring := rfl
@[simp] theorem State.enterDraining_mem : s.enterDraining.mem = s.mem := rfl
@[simp] theorem State.enterDraining_produced : s.enterDraining.produced = s.produced := rfl
@[simp] theorem State.enterDraining_consumed : s.enterDraining.consumed = s.consumed := rfl
@[simp] theorem State.enterDraining_out : s.enterDraining.out = s.out := rfl
@[simp] theorem State.enterDraining_fault : s.enterDraining.fault = s.fault := rfl
@[simp] theorem State.enterDraining_result : s.enterDraining.result = s.result := rfl
@[simp] theorem State.enterDraining_freeCount : s.enterDraining.freeCount = s.freeCount := rfl
@[simp] theorem State.enterDraining_outstanding : s.enterDraining.outstanding = s.outstanding := rfl
@[simp] theorem State.enterDraining_schedule : s.enterDraining.schedule = s.schedule := rfl

end enterDraining

section takeByte

variable (s : State)

@[simp] theorem State.takeByte_phase : s.takeByte.phase = s.phase := rfl
@[simp] theorem State.takeByte_wr : s.takeByte.wr = s.wr := rfl
@[simp] theorem State.takeByte_rd : s.takeByte.rd = s.rd := rfl
@[simp] theorem State.takeByte_srcPtr : s.takeByte.srcPtr = s.srcPtr + 1 := rfl
@[simp] theorem State.takeByte_remBytes : s.takeByte.remBytes = s.remBytes - 1 := rfl
@[simp] theorem State.takeByte_remReset : s.takeByte.remReset = s.remReset := rfl
@[simp] theorem State.takeByte_engRem : s.takeByte.engRem = s.engRem := rfl
@[simp] theorem State.takeByte_cmp : s.takeByte.cmp = s.cmp := rfl
@[simp] theorem State.takeByte_begun : s.takeByte.begun = s.begun := rfl
@[simp] theorem State.takeByte_engEn : s.takeByte.engEn = s.engEn := rfl
@[simp] theorem State.takeByte_refillEn : s.takeByte.refillEn = s.refillEn := rfl
@[simp] theorem State.takeByte_donePend : s.takeByte.donePend = s.donePend := rfl
@[simp] theorem State.takeByte_cfg : s.takeByte.cfg = s.cfg := rfl
@[simp] theorem State.takeByte_ring : s.takeByte.ring = s.ring := rfl
@[simp] theorem State.takeByte_mem : s.takeByte.mem = s.mem := rfl
@[simp] theorem State.takeByte_produced : s.takeByte.produced = s.produced := rfl
@[simp] theorem State.takeByte_consumed : s.takeByte.consumed = s.consumed := rfl
@[simp] theorem State.takeByte_out : s.takeByte.out = s.out := rfl
@[simp] theorem State.takeByte_fault : s.takeByte.fault = s.fault := rfl
@[simp] theorem State.takeByte_result : s.takeByte.result = s.result := rfl
@[simp] theorem State.takeByte_freeCount : s.takeByte.freeCount = s.freeCount := rfl
@[simp] theorem State.takeByte_outstanding : s.takeByte.outstanding = s.outstanding := rfl
@[simp] theorem State.takeByte_schedule : s.takeByte.schedule = s.schedule := rfl

end takeByte

section countZero

variable (s : State)

@[simp] theorem State.countZero_phase : s.countZero.phase = s.phase := rfl
@[simp] theorem State.countZero_wr : s.countZero.wr = s.wr := rfl
@[simp] theorem State.countZero_rd : s.countZero.rd = s.rd := rfl
@[simp] theorem State.countZero_srcPtr : s.countZero.srcPtr = s.srcPtr := rfl
@[simp] theorem State.countZero_remBytes : s.countZero.remBytes = s.remBytes := rfl
@[simp] theorem State.countZero_remReset : s.countZero.remReset = s.remReset - 1 := rfl
@[simp] theorem State.countZero_engRem : s.countZero.engRem = s.engRem := rfl
@[simp] theorem State.countZero_cmp : s.countZero.cmp = s.cmp := rfl
@[simp] theorem State.countZero_begun : s.countZero.begun = s.begun := rfl
@[simp] theorem State.countZero_engEn : s.countZero.engEn = s.engEn := rfl
@[simp] theorem State.countZero_refillEn : s.countZero.refillEn = s.refillEn := rfl
@[simp] theorem State.countZero_donePend : s.countZero.donePend = s.donePend := rfl
@[simp] theorem State.countZero_cfg : s.countZero.cfg = s.cfg := rfl
@[simp] theorem State.countZero_ring : s.countZero.ring = s.ring := rfl
@[simp] theorem State.countZero_mem : s.countZero.mem = s.mem := rfl
@[simp] theorem State.countZero_produced : s.countZero.produced = s.produced := rfl
@[simp] theorem State.countZero_consumed : s.countZero.consumed = s.consumed := rfl
@[simp] theorem State.countZero_out : s.countZero.out = s.out := rfl
@[simp] theorem State.countZero_fault : s.countZero.fault = s.fault := rfl
@[simp] theorem State.countZero_result : s.countZero.result = s.result := rfl
@[simp] theorem State.countZero_freeCount : s.countZero.freeCount = s.freeCount := rfl
@[simp] theorem State.countZero_outstanding : s.countZero.outstanding = s.outstanding := rfl
@[simp] theorem State.countZero_schedule : s.countZero.schedule = s.schedule := rfl

end countZero

section disarm

variable (s : State)

@[simp] theorem State.disarm_phase : s.disarm.phase = s.phase := rfl
@[simp] theorem State.disarm_wr : s.disarm.wr = s.wr := rfl
@[simp] theorem State.disarm_rd : s.disarm.rd = s.rd := rfl
@[simp] theorem State.disarm_srcPtr : s.disarm.srcPtr = s.srcPtr := rfl
@[simp] theorem State.disarm_remBytes : s.disarm.remBytes = s.remBytes := rfl
@[simp] theorem State.disarm_remReset : s.disarm.remReset = s.remReset := rfl
@[simp] theorem State.disarm_engRem : s.disarm.engRem = s.engRem := rfl
@[simp] theorem State.disarm_cmp : s.disarm.cmp = s.cmp := rfl
@[simp] theorem State.disarm_begun : s.disarm.begun = s.begun := rfl
@[simp] theorem State.disarm_engEn : s.disarm.engEn = s.engEn := rfl
@[simp] theorem State.disarm_refillEn : s.disarm.refillEn = false := rfl
@[simp] theorem State.disarm_donePend : s.disarm.donePend = s.donePend := rfl
@[simp] theorem State.disarm_cfg : s.disarm.cfg = s.cfg := rfl
@[simp] theorem State.disarm_ring : s.disarm.ring = s.ring := rfl
@[simp] theorem State.disarm_mem : s.disarm.mem = s.mem := rfl
@[simp] theorem State.disarm_produced : s.disarm.produced = s.produced := rfl
@[simp] theorem State.disarm_consumed : s.disarm.consumed = s.consumed := rfl
@[simp] theorem State.disarm_out : s.disarm.out = s.out := rfl
@[simp] theorem State.disarm_fault : s.disarm.fault = s.fault := rfl
@[simp] theorem State.disarm_result : s.disarm.result = s.result := rfl
@[simp] theorem State.disarm_freeCount : s.disarm.freeCount = s.freeCount := rfl
@[simp] theorem State.disarm_outstanding : s.disarm.outstanding = s.outstanding := rfl
@[simp] theorem State.disarm_schedule : s.disarm.schedule = s.schedule := rfl

end disarm

section initialise

variable (s : State)

@[simp] theorem State.initialise_phase : s.initialise.phase = .idle := rfl
@[simp] theorem State.initialise_wr : s.initialise.wr = 0 := rfl
@[simp] theorem State.initialise_rd : s.initialise.rd = 0 := rfl
@[simp] theorem State.initialise_srcPtr : s.initialise.srcPtr = 0 := rfl
@[simp] theorem State.initialise_remBytes : s.initialise.remBytes = 0 := rfl
@[simp] theorem State.initialise_remReset : s.initialise.remReset = 0 := rfl
@[simp] theorem State.initialise_engRem : s.initialise.engRem = 0 := rfl
@[simp] theorem State.initialise_cmp : s.initialise.cmp = 0 := rfl
@[simp] theorem State.initialise_begun : s.initialise.begun = true := rfl
@[simp] theorem State.initialise_engEn : s.initialise.engEn = false := rfl
@[simp] theorem State.initialise_refillEn : s.initialise.refillEn = false := rfl
@[simp] theorem State.initialise_donePend : s.initialise.donePend = false := rfl
@[simp] theorem State.initialise_cfg : s.initialise.cfg = s.cfg := rfl
@[simp] theorem State.initialise_ring : s.initialise.ring = s.ring := rfl
@[simp] theorem State.initialise_mem : s.initialise.mem = s.mem := rfl
@[simp] theorem State.initialise_produced : s.initialise.produced = 0 := rfl
@[simp] theorem State.initialise_consumed : s.initialise.consumed = 0 := rfl
@[simp] theorem State.initialise_out : s.initialise.out = [] := rfl
@[simp] theorem State.initialise_fault : s.initialise.fault = s.fault := rfl
@[simp] theorem State.initialise_result : s.initialise.result = s.result := rfl
@[simp] theorem State.initialise_freeCount : s.initialise.freeCount = s.freeCount := rfl
@[simp] theorem State.initialise_outstanding : s.initialise.outstanding = s.outstanding := rfl
@[simp] theorem State.initialise_schedule : s.initialise.schedule = s.schedule := rfl

end initialise

section armProducer

variable (s : State) (src : Addr)

@[simp] theorem State.armProducer_phase : (s.armProducer src).phase = .streaming := rfl
@[simp] theorem State.armProducer_wr : (s.armProducer src).wr = 0 := rfl
@[simp] theorem State.armProducer_rd : (s.armProducer src).rd = 0 := rfl
@[simp] theorem State.armProducer_srcPtr : (s.armProducer src).srcPtr = src := rfl
@[simp] theorem State.armProducer_remBytes : (s.armProducer src).remBytes = BitVec.ofNat 32 s.cfg.totalBytes := rfl
@[simp] theorem State.armProducer_remReset : (s.armProducer src).remReset = 0 := rfl
@[simp] theorem State.armProducer_engRem : (s.armProducer src).engRem = s.engRem := rfl
@[simp] theorem State.armProducer_cmp : (s.armProducer src).cmp = s.cmp := rfl
@[simp] theorem State.armProducer_begun : (s.armProducer src).begun = s.begun := rfl
@[simp] theorem State.armProducer_engEn : (s.armProducer src).engEn = s.engEn := rfl
@[simp] theorem State.armProducer_refillEn : (s.armProducer src).refillEn = false := rfl
@[simp] theorem State.armProducer_donePend : (s.armProducer src).donePend = s.donePend := rfl
@[simp] theorem State.armProducer_cfg : (s.armProducer src).cfg = s.cfg := rfl
@[simp] theorem State.armProducer_ring : (s.armProducer src).ring = s.ring := rfl
@[simp] theorem State.armProducer_mem : (s.armProducer src).mem = s.mem := rfl
@[simp] theorem State.armProducer_produced : (s.armProducer src).produced = 0 := rfl
@[simp] theorem State.armProducer_consumed : (s.armProducer src).consumed = 0 := rfl
@[simp] theorem State.armProducer_out : (s.armProducer src).out = s.out := rfl
@[simp] theorem State.armProducer_fault : (s.armProducer src).fault = s.fault := rfl
@[simp] theorem State.armProducer_result : (s.armProducer src).result = s.result := rfl
@[simp] theorem State.armProducer_freeCount : (s.armProducer src).freeCount = s.freeCount := rfl
@[simp] theorem State.armProducer_outstanding : (s.armProducer src).outstanding = s.outstanding := rfl
@[simp] theorem State.armProducer_schedule : (s.armProducer src).schedule = s.schedule := rfl

end armProducer

section armEngine

variable (s : State)

@[simp] theorem State.armEngine_phase : s.armEngine.phase = s.phase := rfl
@[simp] theorem State.armEngine_wr : s.armEngine.wr = s.wr := rfl
@[simp] theorem State.armEngine_rd : s.armEngine.rd = s.rd := rfl
@[simp] theorem State.armEngine_srcPtr : s.armEngine.srcPtr = s.srcPtr := rfl
@[simp] theorem State.armEngine_remBytes : s.armEngine.remBytes = s.remBytes := rfl
@[simp] theorem State.armEngine_remReset : s.armEngine.remReset = s.remReset := rfl
@[simp] theorem State.armEngine_engRem : s.armEngine.engRem = BitVec.ofNat 32 s.cfg.totalSlots := rfl
@[simp] theorem State.armEngine_cmp : s.armEngine.cmp = s.cmp := rfl
@[simp] theorem State.armEngine_begun : s.armEngine.begun = s.begun := rfl
@[simp] theorem State.armEngine_engEn : s.armEngine.engEn = true := rfl
@[simp] theorem State.armEngine_refillEn : s.armEngine.refillEn = true := rfl
@[simp] theorem State.armEngine_donePend : s.armEngine.donePend = s.donePend := rfl
@[simp] theorem State.armEngine_cfg : s.armEngine.cfg = s.cfg := rfl
@[simp] theorem State.armEngine_ring : s.armEngine.ring = s.ring := rfl
@[simp] theorem State.armEngine_mem : s.armEngine.mem = s.mem := rfl
@[simp] theorem State.armEngine_produced : s.armEngine.produced = s.produced := rfl
@[simp] theorem State.armEngine_consumed : s.armEngine.consumed = s.consumed := rfl
@[simp] theorem State.armEngine_out : s.armEngine.out = s.out := rfl
@[simp] theorem State.armEngine_fault : s.armEngine.fault = s.fault := rfl
@[simp] theorem State.armEngine_result : s.armEngine.result = s.result := rfl
@[simp] theorem State.armEngine_freeCount : s.armEngine.freeCount = s.freeCount := rfl
@[simp] theorem State.armEngine_outstanding : s.armEngine.outstanding = none := rfl
@[simp] theorem State.armEngine_schedule : s.armEngine.schedule = s.schedule := rfl

end armEngine

section takeSlot

variable (s : State)

@[simp] theorem State.takeSlot_phase : s.takeSlot.phase = s.phase := rfl
@[simp] theorem State.takeSlot_wr : s.takeSlot.wr = s.wr := rfl
@[simp] theorem State.takeSlot_rd : s.takeSlot.rd = cursorNext s.rd := rfl
@[simp] theorem State.takeSlot_srcPtr : s.takeSlot.srcPtr = s.srcPtr := rfl
@[simp] theorem State.takeSlot_remBytes : s.takeSlot.remBytes = s.remBytes := rfl
@[simp] theorem State.takeSlot_remReset : s.takeSlot.remReset = s.remReset := rfl
@[simp] theorem State.takeSlot_engRem : s.takeSlot.engRem = s.engRem - 1 := rfl
@[simp] theorem State.takeSlot_cmp : s.takeSlot.cmp = s.readSlot s.rd := rfl
@[simp] theorem State.takeSlot_begun : s.takeSlot.begun = s.begun := rfl
@[simp] theorem State.takeSlot_engEn : s.takeSlot.engEn = s.engEn := rfl
@[simp] theorem State.takeSlot_refillEn : s.takeSlot.refillEn = s.refillEn := rfl
@[simp] theorem State.takeSlot_donePend : s.takeSlot.donePend = s.donePend := rfl
@[simp] theorem State.takeSlot_cfg : s.takeSlot.cfg = s.cfg := rfl
@[simp] theorem State.takeSlot_ring : s.takeSlot.ring = s.ring := rfl
@[simp] theorem State.takeSlot_mem : s.takeSlot.mem = s.mem := rfl
@[simp] theorem State.takeSlot_produced : s.takeSlot.produced = s.produced := rfl
@[simp] theorem State.takeSlot_consumed : s.takeSlot.consumed = s.consumed + 1 := rfl
@[simp] theorem State.takeSlot_out : s.takeSlot.out = s.out ++ [s.readSlot s.rd] := rfl
@[simp] theorem State.takeSlot_fault : s.takeSlot.fault = s.fault := rfl
@[simp] theorem State.takeSlot_result : s.takeSlot.result = s.result := rfl
@[simp] theorem State.takeSlot_freeCount : s.takeSlot.freeCount = s.freeCount := rfl
@[simp] theorem State.takeSlot_outstanding : s.takeSlot.outstanding = s.outstanding := rfl
@[simp] theorem State.takeSlot_schedule : s.takeSlot.schedule = s.schedule := rfl

end takeSlot

section completeWork

variable (s : State)

@[simp] theorem State.completeWork_phase : s.completeWork.phase = .idle := rfl
@[simp] theorem State.completeWork_wr : s.completeWork.wr = s.wr := rfl
@[simp] theorem State.completeWork_rd : s.completeWork.rd = s.rd := rfl
@[simp] theorem State.completeWork_srcPtr : s.completeWork.srcPtr = s.srcPtr := rfl
@[simp] theorem State.completeWork_remBytes : s.completeWork.remBytes = s.remBytes := rfl
@[simp] theorem State.completeWork_remReset : s.completeWork.remReset = s.remReset := rfl
@[simp] theorem State.completeWork_engRem : s.completeWork.engRem = s.engRem := rfl
@[simp] theorem State.completeWork_cmp : s.completeWork.cmp = s.cmp := rfl
@[simp] theorem State.completeWork_begun : s.completeWork.begun = s.begun := rfl
@[simp] theorem State.completeWork_engEn : s.completeWork.engEn = false := rfl
@[simp] theorem State.completeWork_refillEn : s.completeWork.refillEn = s.refillEn := rfl
@[simp] theorem State.completeWork_donePend : s.completeWork.donePend = false := rfl
@[simp] theorem State.completeWork_cfg : s.completeWork.cfg = s.cfg := rfl
@[simp] theorem State.completeWork_ring : s.completeWork.ring = s.ring := rfl
@[simp] theorem State.completeWork_mem : s.completeWork.mem = s.mem := rfl
@[simp] theorem State.completeWork_produced : s.completeWork.produced = s.produced := rfl
@[simp] theorem State.completeWork_consumed : s.completeWork.consumed = s.consumed := rfl
@[simp] theorem State.completeWork_out : s.completeWork.out = s.out := rfl
@[simp] theorem State.completeWork_fault : s.completeWork.fault = s.fault := rfl
@[simp] theorem State.completeWork_result : s.completeWork.result = s.result := rfl
@[simp] theorem State.completeWork_freeCount : s.completeWork.freeCount = s.freeCount := rfl
@[simp] theorem State.completeWork_outstanding : s.completeWork.outstanding = s.outstanding := rfl
@[simp] theorem State.completeWork_schedule : s.completeWork.schedule = s.schedule := rfl

end completeWork

end Sys2Proof.Machine
end

