-- ==== Sys2Proof/Laws/Cycle.lean ====
section
/-! SUPPORT. The invariants of R171: what they do not depend on, and the free space they imply. -/

namespace Sys2Proof.Machine

theorem totalSlots_lt (c : Config) : c.totalSlots < 2 ^ 32 := by
  have := c.countFits
  simp only [Config.totalSlots, Config.bitsPerLed, Config.resetBits, Config.nMax] at *; omega

/-- A mark of another name leaves UNDERRUN as it was. -/
theorem State.underrun_raise_other (s : State) (m : FaultMark) (h : m.name ≠ .underrun) :
    (s.raise m).underrun = s.underrun := by
  have hm : (m.name == FaultName.underrun) = false := by simpa using h
  simp only [State.underrun, State.faulted, State.raise_fault, addMark]
  split
  · rfl
  · simp [hm]

theorem State.underrun_raise (s : State) (r : Cursor) : (s.raise (.underrun r)).underrun = true := by
  simp only [State.underrun, State.faulted, State.raise_fault, addMark]
  split
  · rename_i h; rw [List.any_eq_true]; exact ⟨_, h, rfl⟩
  · simp [FaultMark.name]

/-- What the invariants of R171 do not depend on. -/
theorem State.CycleInv.congr {s t : State} (h : s.CycleInv)
    (e : t = { s with
      mem := t.mem, fault := t.fault, result := t.result, freeCount := t.freeCount, outstanding := t.outstanding,
      schedule := t.schedule, begun := t.begun, refillEn := t.refillEn })
    (hu : t.underrun = false → s.underrun = false) : t.CycleInv := by
  rw [e] at hu ⊢
  exact {
    idleAtRest := h.idleAtRest
    doneStopped := h.doneStopped
    engineCount := h.engineCount
    writeCursor := h.writeCursor
    readCursor := h.readCursor
    streamingCount := h.streamingCount
    holdCount := h.holdCount
    drainingCount := h.drainingCount
    ahead := fun x => h.ahead (hu x)
    bounded := h.bounded
    sourceRegion := h.sourceRegion
    atRest := fun x => h.atRest (hu x)
    running := h.running
    doneRaised := h.doneRaised
    ledlessIdle := h.ledlessIdle
    zeroTail := fun x => h.zeroTail (hu x)
    lowTail := fun x => h.lowTail (hu x) }

/-- The free space in a cycle without underrun (R35, R80). -/
theorem State.avail_of_cycleInv {s : State} (h : s.CycleInv) (hu : s.underrun = false) : s.avail = 127 -
    (s.produced - s.consumed) := by
  have h1 := h.writeCursor
  have h2 := h.readCursor
  obtain ⟨h3, h4⟩ := h.ahead hu
  simp only [State.avail, Config.cap] at *
  bv_omega

end Sys2Proof.Machine
end

