-- ==== Sys2Proof/Laws/Decode.lean ====
section
/-! SUPPORT. The fields of a word and the word of fields; every operation has legal fields. -/

namespace Sys2Proof

@[simp] theorem fieldsOf_wordOf (f : OpFields) : fieldsOf (wordOf f) = f := by
  obtain ⟨opc, a, b⟩ := f
  simp only [fieldsOf, wordOf, OpFields.mk.injEq]
  refine ⟨?_, ?_, ?_⟩ <;> ext i hi <;>
    simp only [BitVec.getElem_extractLsb', BitVec.getLsbD_cast, BitVec.getLsbD_append]
  · simp [show ¬ 40 + i < 8 by omega, show ¬ 40 + i - 8 < 32 by omega, show 40 + i - 8 - 32 = i by omega,
      BitVec.getLsbD_eq_getElem hi]
  · simp [show ¬ 8 + i < 8 by omega, hi]
  · simp [hi]

@[simp] theorem wordOf_fieldsOf (w : OpWord) : wordOf (fieldsOf w) = w := by
  ext i hi
  simp only [fieldsOf, wordOf, BitVec.getElem_cast, BitVec.getElem_append]
  split
  · simp [BitVec.getLsbD_eq_getElem hi]
  · split
    · simp [show 8 + (i - 8) = i by omega, BitVec.getLsbD_eq_getElem hi]
    · simp [show 40 + (i - 8 - 32) = i by omega, BitVec.getLsbD_eq_getElem hi]

/-- Each bit of a word is a bit of one field (R67). -/
theorem getElem_wordOf (f : OpFields) (i : Nat) (hi : i < 48) :
    (wordOf f)[i] = if i < 8 then f.b.getLsbD i else if i < 40 then f.a.getLsbD (i - 8) else f.opc.getLsbD (i - 40) := by
  simp only [wordOf, BitVec.getElem_cast, BitVec.getElem_append]
  split
  · simp [BitVec.getLsbD_eq_getElem, *]
  · split
    · have : i < 40 := by omega
      simp [BitVec.getLsbD_eq_getElem, *]
    · have h : ¬ i < 40 := by omega
      have e : i - 8 - 32 = i - 40 := by omega
      simp [h, e, ← BitVec.getLsbD_eq_getElem]

theorem Instr.wellFormed (i : Instr) : i.WellFormed := by
  cases i <;> simp [Instr.WellFormed, OpFields.WellFormed, fieldsOfInstr, OpFields.illegal, OpFields.assigned,
    OpFields.usesA, OpFields.usesB]

end Sys2Proof
end

