-- ==== Sys2Proof/Laws/Exec.lean ====
section
/-! SUPPORT. Everything an operation can do, once: the cases in which `exec` answers a next state (R9, R74), and what a step
is. -/

namespace Sys2Proof.Machine

/-- The next states of an operation, case by case. -/
inductive Stepped (s : State) : Instr → State → Prop where
  | beginAgain : s.begun = true → Stepped s .begin (s.raise (.contract .begin))
  | beginFirst : s.begun = false → Stepped s .begin s.initialise
  | startEarly (src) : s.begun = false → Stepped s (.start src) (s.raise (.contract .start))
  | startNoLeds (src) : s.begun = true → s.cfg.n = 0 → Stepped s (.start src) s
  | startWraps (src) : s.begun = true → s.cfg.n ≠ 0 → s.sourceWraps src = true →
      Stepped s (.start src) (s.raise (.contract .start))
  | startHeld (src) : s.begun = true → s.cfg.n ≠ 0 → s.sourceWraps src = false → s.phase ≠ .idle →
      Stepped s (.start src) (s.hold src)
  | startRuns (src) : s.begun = true → s.cfg.n ≠ 0 → s.sourceWraps src = false → s.phase = .idle →
      Stepped s (.start src) (s.startCycle src)
  | busyEarly : s.begun = false → Stepped s .busy (s.raise (.contract .busy)).deliverFree
  | busyAnswers : s.begun = true → Stepped s .busy (s.deliver ((BitVec.ofBool s.busy).setWidth 32))
  | rdstateEarly : s.begun = false → Stepped s .rdstate (s.raise (.contract .rdstate)).deliverFree
  | rdstateAnswers : s.begun = true → Stepped s .rdstate (s.deliver (s.phase.code.setWidth 32))
  | pokeEarly (addr data) : s.begun = false → Stepped s (.poke addr data) ((s.raise (.contract .poke)).writeByte addr data)
  | pokeMutates (addr data) : s.begun = true → s.phase = .streaming → s.inSource addr = true →
      Stepped s (.poke addr data) ((s.raise (.srcMutation addr)).writeByte addr data)
  | pokeWrites (addr data) : s.begun = true → ¬(s.phase = .streaming ∧ s.inSource addr = true) →
      Stepped s (.poke addr data) (s.writeByte addr data)
  | tickDisarms : s.tickEnabled = true → (s.phase = .idle ∨ s.phase = .draining) →
      Stepped s .tick s.disarm
  | tickRefills : s.tickEnabled = true → (s.phase = .streaming ∨ s.phase = .resettingHold) → Stepped s .tick s.refill
  | consumeUnderruns : s.consumeEnabled = true → s.consumed = s.produced →
      Stepped s .consume (s.raise (.underrun s.rd)).takeSlot.checkDone
  | consumeMoves : s.consumeEnabled = true → s.consumed ≠ s.produced → Stepped s .consume s.takeSlot.checkDone
  | completes : s.completeEnabled = true → Stepped s .complete s.completeWork

theorem exec_stepped {i : Instr} {s t : State} (h : exec i s = .next t) : Stepped s i t := by
  cases i with
  | begin =>
    by_cases hb : s.begun = true
    · simp only [exec, execBegin, if_pos hb] at h; cases h; exact .beginAgain hb
    · simp only [exec, execBegin, if_neg hb] at h; cases h; exact .beginFirst (by simpa using hb)
  | start src =>
    by_cases hb : s.begun = false
    · simp only [exec, execStart, if_pos hb] at h; cases h; exact .startEarly src hb
    by_cases hn : s.cfg.n = 0
    · simp only [exec, execStart, if_neg hb, if_pos hn] at h; cases h; exact .startNoLeds src (by simpa using hb) hn
    by_cases hw : s.sourceWraps src = true
    · simp only [exec, execStart, if_neg hb, if_neg hn, if_pos hw] at h; cases h
      exact .startWraps src (by simpa using hb) hn hw
    by_cases hp : s.phase ≠ .idle
    · simp only [exec, execStart, if_neg hb, if_neg hn, if_neg hw, if_pos hp] at h; cases h
      exact .startHeld src (by simpa using hb) hn (by simpa using hw) hp
    · simp only [exec, execStart, if_neg hb, if_neg hn, if_neg hw, if_neg hp] at h; cases h
      exact .startRuns src (by simpa using hb) hn (by simpa using hw) (not_not.mp hp)
  | busy =>
    by_cases hb : s.begun = false
    · simp only [exec, execBusy, if_pos hb] at h; cases h; exact .busyEarly hb
    · simp only [exec, execBusy, if_neg hb] at h; cases h; exact .busyAnswers (by simpa using hb)
  | rdstate =>
    by_cases hb : s.begun = false
    · simp only [exec, execRdstate, if_pos hb] at h; cases h; exact .rdstateEarly hb
    · simp only [exec, execRdstate, if_neg hb] at h; cases h; exact .rdstateAnswers (by simpa using hb)
  | poke addr data =>
    by_cases hb : s.begun = false
    · simp only [exec, execPoke, State.pokeMark, if_pos hb] at h; cases h; exact .pokeEarly addr data hb
    by_cases hm : s.phase = .streaming ∧ s.inSource addr = true
    · simp only [exec, execPoke, State.pokeMark, if_neg hb, if_pos hm] at h; cases h
      exact .pokeMutates addr data (by simpa using hb) hm.1 hm.2
    · simp only [exec, execPoke, State.pokeMark, if_neg hb, if_neg hm] at h; cases h
      exact .pokeWrites addr data (by simpa using hb) hm
  | tick =>
    by_cases he : s.tickEnabled = true
    · simp only [exec, execTick, if_pos he] at h; cases h
      by_cases hp : s.phase = .idle ∨ s.phase = .draining
      · have e : s.interruptEntry.tickWork.interruptReturn = s.disarm := if_pos hp
        rw [e]; exact .tickDisarms he hp
      · have e : s.interruptEntry.tickWork.interruptReturn = s.refill := if_neg hp
        rw [e]; exact .tickRefills he (by cases hq : s.phase <;> simp_all)
    · simp only [exec, execTick, if_neg he] at h; cases h
  | consume =>
    by_cases he : s.consumeEnabled = true
    · simp only [exec, execConsume, if_pos he] at h; cases h
      by_cases hu : s.consumed = s.produced
      · simp only [State.checkUnderrun, if_pos hu]; exact .consumeUnderruns he hu
      · simp only [State.checkUnderrun, if_neg hu]; exact .consumeMoves he hu
    · simp only [exec, execConsume, if_neg he] at h; cases h
  | complete =>
    by_cases he : s.completeEnabled = true
    · simp only [exec, execComplete, if_pos he] at h; cases h; exact .completes he
    · simp only [exec, execComplete, if_neg he] at h; cases h

theorem exec_of_stepped {i : Instr} {s t : State} (h : Stepped s i t) : exec i s = .next t := by
  cases h with
  | beginAgain hb => simp [exec, execBegin, hb]
  | beginFirst hb => simp [exec, execBegin, hb]
  | startEarly src hb => simp [exec, execStart, hb]
  | startNoLeds src hb hn => simp [exec, execStart, hb, hn]
  | startWraps src hb hn hw =>
    have hn' : ¬ s.cfg.n = 0 := hn
    rw [exec, execStart, if_neg (by simp [hb]), if_neg hn', if_pos hw]
  | startHeld src hb hn hw hp =>
    have hn' : ¬ s.cfg.n = 0 := hn
    rw [exec, execStart, if_neg (by simp [hb]), if_neg hn', if_neg (by simp [hw]), if_pos hp]
  | startRuns src hb hn hw hp =>
    have hn' : ¬ s.cfg.n = 0 := hn
    rw [exec, execStart, if_neg (by simp [hb]), if_neg hn', if_neg (by simp [hw]), if_neg (by simp [hp])]
  | busyEarly hb => simp [exec, execBusy, hb]
  | busyAnswers hb => simp [exec, execBusy, hb]
  | rdstateEarly hb => simp [exec, execRdstate, hb]
  | rdstateAnswers hb => simp [exec, execRdstate, hb]
  | pokeEarly addr data hb => rw [exec, execPoke, State.pokeMark, if_pos hb]
  | pokeMutates addr data hb hp hm =>
    rw [exec, execPoke, State.pokeMark, if_neg (by simp [hb]), if_pos ⟨hp, hm⟩]
  | pokeWrites addr data hb hm => rw [exec, execPoke, State.pokeMark, if_neg (by simp [hb]), if_neg hm]
  | tickDisarms he hp =>
    have e : s.interruptEntry.tickWork.interruptReturn = s.disarm := if_pos hp
    rw [exec, execTick, if_pos he, e]
  | tickRefills he hp =>
    have e : s.interruptEntry.tickWork.interruptReturn = s.refill := if_neg (by rcases hp with h | h <;> simp [h])
    rw [exec, execTick, if_pos he, e]
  | consumeUnderruns he hu => rw [exec, execConsume, if_pos he, State.checkUnderrun, if_pos hu]
  | consumeMoves he hu => rw [exec, execConsume, if_pos he, State.checkUnderrun, if_neg hu]
  | completes he => rw [exec, execComplete, if_pos he]; rfl

/-- An operation answers a next state in exactly the cases of `Stepped`. -/
theorem exec_next_iff {i : Instr} {s t : State} : exec i s = .next t ↔ Stepped s i t :=
  ⟨exec_stepped, exec_of_stepped⟩

/-- No operation stops the machine with a fault: the faults of R136 are marks. -/
theorem exec_ne_fault (i : Instr) (s : State) (r : Fault) : exec i s ≠ .fault r := by
  cases i <;> simp only [exec, execBegin, execStart, execBusy, execRdstate, execPoke, execTick, execConsume, execComplete]
  all_goals repeat' split
  all_goals simp

/-- A step that answers a next state ran the operation of the next word on the state without it. -/
theorem step_next {s t : State} (h : step s = .next t) :
    ∃ w rest i, s.schedule = w :: rest ∧ decode w = .ok i ∧ State.hostBlocked { s with schedule := rest } i = false ∧
      exec i { s with schedule := rest } = .next t := by
  simp only [step, State.nextWord] at h
  cases hs : s.schedule with
  | nil => simp [hs] at h
  | cons w rest =>
    simp only [hs] at h
    cases hd : decode w with
    | error e => simp [hd] at h
    | ok i =>
      simp only [hd] at h
      split at h
      · cases h
      · exact ⟨w, rest, i, rfl, hd, by simp_all, h⟩

end Sys2Proof.Machine
end

