-- ==== Sys2Proof/Laws/Memory.lean ====
section
/-! SUPPORT. The source byte space: reading after writing, and the canonical form kept by every write. -/

namespace Sys2Proof.Machine

theorem Memory.read_of_lt_wfFrom {m : Memory} {lo addr : Nat} (h : Memory.wfFrom lo m = true) (hlt : addr < lo) :
    Memory.read m addr = Memory.unlisted addr := by
  cases m with
  | nil => rfl
  | cons c rest =>
    obtain ⟨k, v⟩ := c
    simp only [Memory.wfFrom, Bool.and_eq_true, decide_eq_true_eq] at h
    have : addr < k := by omega
    simp [Memory.read, this]

theorem Memory.wfFrom_mono {m : Memory} {lo lo' : Nat} (h : Memory.wfFrom lo m = true) (hle : lo' ≤ lo) :
    Memory.wfFrom lo' m = true := by
  cases m with
  | nil => rfl
  | cons c rest =>
    obtain ⟨k, v⟩ := c
    simp only [Memory.wfFrom, Bool.and_eq_true, decide_eq_true_eq] at h ⊢
    exact ⟨⟨⟨by omega, h.1.1.2⟩, h.1.2⟩, h.2⟩

theorem Memory.read_cell_same {rest : Memory} {addr : Nat} {v : Byte} (h : Memory.wfFrom (addr + 1) rest = true) :
    Memory.read (Memory.cell addr v rest) addr = v := by
  unfold Memory.cell
  split
  · rename_i hv
    rw [Memory.read_of_lt_wfFrom h (by omega), hv]
  · simp [Memory.read]

theorem Memory.read_cell_other {rest : Memory} {addr b : Nat} {v : Byte} (h : Memory.wfFrom (addr + 1) rest = true)
    (hne : b ≠ addr) : Memory.read (Memory.cell addr v rest) b = Memory.read rest b := by
  unfold Memory.cell
  split
  · rfl
  · by_cases hb : b < addr
    · simp [Memory.read, hb, Memory.read_of_lt_wfFrom h (show b < addr + 1 by omega)]
    · simp [Memory.read, hb, hne]

theorem Memory.wfFrom_cell {rest : Memory} {lo addr : Nat} {v : Byte} (h : Memory.wfFrom (addr + 1) rest = true)
    (hlo : lo ≤ addr) (ha : addr < 2 ^ 32) : Memory.wfFrom lo (Memory.cell addr v rest) = true := by
  unfold Memory.cell
  split
  · exact Memory.wfFrom_mono h (by omega)
  · rename_i hv
    simp [Memory.wfFrom, hlo, hv, h]; omega

/-- A write keeps the canonical form. -/
theorem Memory.wfFrom_write {m : Memory} {lo addr : Nat} {v : Byte} (h : Memory.wfFrom lo m = true) (hlo : lo ≤ addr)
    (ha : addr < 2 ^ 32) : Memory.wfFrom lo (Memory.write m addr v) = true := by
  induction m generalizing lo with
  | nil => exact Memory.wfFrom_cell (rest := []) rfl hlo ha
  | cons c rest ih =>
    obtain ⟨k, u⟩ := c
    have h' := h
    simp only [Memory.wfFrom, Bool.and_eq_true, decide_eq_true_eq] at h
    obtain ⟨⟨⟨hk, hk32⟩, hu⟩, hrest⟩ := h
    simp only [Memory.write]
    split
    · refine Memory.wfFrom_cell ?_ hlo ha
      simp only [Memory.wfFrom, Bool.and_eq_true, decide_eq_true_eq]
      exact ⟨⟨⟨by omega, hk32⟩, hu⟩, hrest⟩
    · split
      · rename_i heq
        exact Memory.wfFrom_cell (heq ▸ hrest) hlo ha
      · simp only [Memory.wfFrom, Bool.and_eq_true, decide_eq_true_eq]
        exact ⟨⟨⟨hk, hk32⟩, hu⟩, ih hrest (by omega)⟩

/-- Reading the address written gives the value written. -/
theorem Memory.read_write_same {m : Memory} {lo addr : Nat} {v : Byte} (h : Memory.wfFrom lo m = true) :
    Memory.read (Memory.write m addr v) addr = v := by
  induction m generalizing lo with
  | nil => exact Memory.read_cell_same (rest := []) rfl
  | cons c rest ih =>
    obtain ⟨k, u⟩ := c
    simp only [Memory.wfFrom, Bool.and_eq_true, decide_eq_true_eq] at h
    obtain ⟨⟨⟨hk, hk32⟩, hu⟩, hrest⟩ := h
    simp only [Memory.write]
    split
    · refine Memory.read_cell_same ?_
      simp only [Memory.wfFrom, Bool.and_eq_true, decide_eq_true_eq]
      exact ⟨⟨⟨by omega, hk32⟩, hu⟩, hrest⟩
    · split
      · rename_i heq
        exact Memory.read_cell_same (heq ▸ hrest)
      · rename_i h1 h2
        simp only [Memory.read, h1, h2, if_false]
        exact ih hrest

/-- A write leaves every other address alone. -/
theorem Memory.read_write_other {m : Memory} {lo addr b : Nat} {v : Byte} (h : Memory.wfFrom lo m = true)
    (hne : b ≠ addr) : Memory.read (Memory.write m addr v) b = Memory.read m b := by
  induction m generalizing lo with
  | nil => exact Memory.read_cell_other (rest := []) rfl hne
  | cons c rest ih =>
    obtain ⟨k, u⟩ := c
    simp only [Memory.wfFrom, Bool.and_eq_true, decide_eq_true_eq] at h
    obtain ⟨⟨⟨hk, hk32⟩, hu⟩, hrest⟩ := h
    simp only [Memory.write]
    split
    · refine Memory.read_cell_other ?_ hne
      simp only [Memory.wfFrom, Bool.and_eq_true, decide_eq_true_eq]
      exact ⟨⟨⟨by omega, hk32⟩, hu⟩, hrest⟩
    · split
      · rename_i h1 heq
        subst heq
        rw [Memory.read_cell_other hrest hne]
        by_cases hb : b < addr
        · simp [Memory.read, hb, Memory.read_of_lt_wfFrom hrest (show b < addr + 1 by omega)]
        · simp [Memory.read, hb, hne]
      · simp only [Memory.read, ih hrest]

/-- Every write of the block keeps the canonical form. -/
theorem State.writeByte_wf {s : State} {a : Addr} {v : Byte} (h : Memory.wf s.mem = true) :
    Memory.wf (s.writeByte a v).mem = true :=
  Memory.wfFrom_write h (Nat.zero_le _) a.isLt

theorem State.readByte_writeByte_same {s : State} {a : Addr} {v : Byte} (h : Memory.wf s.mem = true) :
    (s.writeByte a v).readByte a = v :=
  Memory.read_write_same h

theorem State.readByte_writeByte_other {s : State} {a b : Addr} {v : Byte} (h : Memory.wf s.mem = true) (hne : b ≠ a) :
    (s.writeByte a v).readByte b = s.readByte b :=
  Memory.read_write_other h fun e => hne (BitVec.eq_of_toNat_eq e)

theorem State.reset_memory_wf : Memory.wf State.reset.mem = true := rfl

end Sys2Proof.Machine
end

