-- ==== Sys2Proof/Laws/PerInstr.lean ====
section
/-! SUPPORT. The family OpcodeRow: the word of each operation selects the row of the opcode map that has its mnemonic
(R68). -/

namespace Sys2Proof.Laws.OpcodeRow

/-- The operation's word selects the row of its mnemonic. -/
def Statement (i : Instr) : Prop := ∃ r ∈ opcodeMap, r.mnemonic = i.mnemonic ∧ r.selects (encode i) = true

theorem begin : Statement .begin := by unfold Statement; decide

theorem busy : Statement .busy := by unfold Statement; decide

theorem rdstate : Statement .rdstate := by unfold Statement; decide

theorem tick : Statement .tick := by unfold Statement; decide

theorem consume : Statement .consume := by unfold Statement; decide

theorem complete : Statement .complete := by unfold Statement; decide

theorem start (src : Addr) : Statement (.start src) := by
  refine ⟨⟨"START", 0x020000000000, 0xFF00000000FF⟩, by decide, rfl, ?_⟩
  simp only [OpRow.selects, encode, fieldsOfInstr, beq_iff_eq]
  ext i hi
  rw [BitVec.getElem_and, getElem_wordOf]
  interval_cases i <;> simp

theorem poke (addr : Addr) (data : Byte) : Statement (.poke addr data) := by
  refine ⟨⟨"POKE", 0x050000000000, 0xFF0000000000⟩, by decide, rfl, ?_⟩
  simp only [OpRow.selects, encode, fieldsOfInstr, beq_iff_eq]
  ext i hi
  rw [BitVec.getElem_and, getElem_wordOf]
  interval_cases i <;> simp

end Sys2Proof.Laws.OpcodeRow
end

