-- ==== Sys2Proof/Laws/Ring.lean ====
section
/-! SUPPORT. The ring: reading after writing, and what successive slot writes of the Producer do. -/

namespace Sys2Proof.Machine

/-- The ring after successive slot writes from a cursor. -/
def ringPut (r : Vector (Option Code) Config.cap) : Cursor → List Code → Vector (Option Code) Config.cap
  | _, [] => r
  | w, v :: rest => ringPut (r.set w.toNat (some v) w.isLt) (w + 1) rest

theorem ringPut_append (r : Vector (Option Code) Config.cap) (w : Cursor) (xs ys : List Code) :
    ringPut r w (xs ++ ys) = ringPut (ringPut r w xs) (w + BitVec.ofNat 7 xs.length) ys := by
  induction xs generalizing r w with
  | nil => simp [ringPut]
  | cons v rest ih =>
    simp only [List.cons_append, ringPut, ih, List.length_cons]
    congr 1
    bv_omega

/-- What successive slot writes change: the ring, WR and PRODUCED, nothing else. -/
theorem State.putSlots_eq (s : State) (codes : List Code) :
    s.putSlots codes =
      { s with
        ring := ringPut s.ring s.wr codes
        wr := s.wr + BitVec.ofNat 7 codes.length
        produced := s.produced + codes.length } := by
  induction codes generalizing s with
  | nil => simp [State.putSlots, ringPut]
  | cons v rest ih =>
    have h : s.putSlots (v :: rest) = (s.putSlot v).putSlots rest := rfl
    rw [h, ih]
    simp only [State.putSlot, State.writeSlot, cursorNext, ringPut, List.length_cons]
    congr 1
    · bv_omega
    · omega

/-- A slot of the ring after successive writes: the code written to it, if one was. -/
theorem ringPut_written {r : Vector (Option Code) Config.cap} {w : Cursor} {codes : List Code} {j : Nat}
    (hj : j < codes.length) (hlen : codes.length ≤ Config.cap) :
    (ringPut r w codes)[(w + BitVec.ofNat 7 j).toNat]'(w + BitVec.ofNat 7 j).isLt = some codes[j] := by
  induction codes using List.reverseRecOn generalizing r w with
  | nil => simp at hj
  | append_singleton xs v ih =>
    simp only [List.length_append, List.length_singleton] at hj hlen
    simp only [ringPut_append, ringPut, Vector.getElem_set]
    by_cases h : j = xs.length
    · subst h; simp
    · have hj' : j < xs.length := by omega
      have hne : (w + BitVec.ofNat 7 xs.length).toNat ≠ (w + BitVec.ofNat 7 j).toNat := by
        simp only [Config.cap] at hlen
        intro e
        have e' := BitVec.eq_of_toNat_eq e
        bv_omega
      rw [if_neg hne, ih hj' (by omega)]
      simp [hj']

/-- A slot outside the slots written keeps its content. -/
theorem ringPut_kept {r : Vector (Option Code) Config.cap} {w : Cursor} {codes : List Code} {d : Nat}
    (hd : codes.length ≤ d) (hcap : d < Config.cap) :
    (ringPut r w codes)[(w + BitVec.ofNat 7 d).toNat]'(w + BitVec.ofNat 7 d).isLt =
      r[(w + BitVec.ofNat 7 d).toNat]'(w + BitVec.ofNat 7 d).isLt := by
  induction codes using List.reverseRecOn generalizing r w with
  | nil => rfl
  | append_singleton xs v ih =>
    simp only [List.length_append, List.length_singleton] at hd
    simp only [ringPut_append, ringPut, Vector.getElem_set]
    have hne : (w + BitVec.ofNat 7 xs.length).toNat ≠ (w + BitVec.ofNat 7 d).toNat := by
      simp only [Config.cap] at hcap
      intro e
      have e' := BitVec.eq_of_toNat_eq e
      bv_omega
    rw [if_neg hne, ih (by omega)]

/-- A slot written by successive slot writes reads as the code written. -/
theorem readSlot_written {s t : State} {codes} (h : t.ring = ringPut s.ring s.wr codes)
    (hlen : codes.length ≤ 128) {j} (hj : j < codes.length) :
    t.readSlot (s.wr + BitVec.ofNat 7 j) = codes[j] := by
  simp only [State.readSlot, h]
  rw [ringPut_written hj hlen]; rfl

/-- A slot outside those written reads as before. -/
theorem readSlot_kept {s t : State} {codes} (h : t.ring = ringPut s.ring s.wr codes) {j} (hj : codes.length ≤ j)
    (hc : j < 128) :
    t.readSlot (s.wr + BitVec.ofNat 7 j) = s.readSlot (s.wr + BitVec.ofNat 7 j) := by
  simp only [State.readSlot, h]
  rw [ringPut_kept hj hc]

theorem State.readSlot_writeSlot_same (s : State) (i : Cursor) (v : Code) : (s.writeSlot i v).readSlot i = v := by
  simp [State.readSlot, State.writeSlot]

theorem State.readSlot_writeSlot_other (s : State) {i j : Cursor} (v : Code) (h : j ≠ i) :
    (s.writeSlot i v).readSlot j = s.readSlot j := by
  have hne : i.toNat ≠ j.toNat := fun e => h (BitVec.eq_of_toNat_eq e.symm)
  simp [State.readSlot, State.writeSlot, hne]

end Sys2Proof.Machine
end

