-- ==== Sys2Proof/Laws/Refill.lean ====
section
/-! SUPPORT. Refill (R81) in closed form: how many bytes and zero slots one run writes, and everything it changes. -/

namespace Sys2Proof.Machine

@[simp] theorem length_codesOfByte (c : Config) (v : Byte) : (codesOfByte c v).length = 8 := rfl

/-- The codes of the next `n` source bytes. -/
def State.dataCodes (s : State) (n : Nat) : List Code :=
  (List.range n).flatMap fun k => codesOfByte s.cfg (s.readByte (s.srcPtr + BitVec.ofNat 32 k))

@[simp] theorem State.length_dataCodes (s : State) (n : Nat) : (s.dataCodes n).length = 8 * n := by
  simp [State.dataCodes, List.length_flatMap]; omega

/-- The state after `n` slot-for-slot unpacked bytes, before the exit test of R83. -/
def State.unpacked (s : State) (n : Nat) : State :=
  { s with
    ring := ringPut s.ring s.wr (s.dataCodes n)
    wr := s.wr + BitVec.ofNat 7 (8 * n)
    produced := s.produced + 8 * n
    srcPtr := s.srcPtr + BitVec.ofNat 32 n
    remBytes := s.remBytes - BitVec.ofNat 32 n }

section unpacked

variable (s : State) (n : Nat)

@[simp] theorem State.unpacked_phase : (s.unpacked n).phase = s.phase := rfl
@[simp] theorem State.unpacked_wr : (s.unpacked n).wr = s.wr + BitVec.ofNat 7 (8 * n) := rfl
@[simp] theorem State.unpacked_rd : (s.unpacked n).rd = s.rd := rfl
@[simp] theorem State.unpacked_srcPtr : (s.unpacked n).srcPtr = s.srcPtr + BitVec.ofNat 32 n := rfl
@[simp] theorem State.unpacked_remBytes : (s.unpacked n).remBytes = s.remBytes - BitVec.ofNat 32 n := rfl
@[simp] theorem State.unpacked_remReset : (s.unpacked n).remReset = s.remReset := rfl
@[simp] theorem State.unpacked_engRem : (s.unpacked n).engRem = s.engRem := rfl
@[simp] theorem State.unpacked_cmp : (s.unpacked n).cmp = s.cmp := rfl
@[simp] theorem State.unpacked_begun : (s.unpacked n).begun = s.begun := rfl
@[simp] theorem State.unpacked_engEn : (s.unpacked n).engEn = s.engEn := rfl
@[simp] theorem State.unpacked_refillEn : (s.unpacked n).refillEn = s.refillEn := rfl
@[simp] theorem State.unpacked_donePend : (s.unpacked n).donePend = s.donePend := rfl
@[simp] theorem State.unpacked_cfg : (s.unpacked n).cfg = s.cfg := rfl
@[simp] theorem State.unpacked_ring : (s.unpacked n).ring = ringPut s.ring s.wr (s.dataCodes n) := rfl
@[simp] theorem State.unpacked_mem : (s.unpacked n).mem = s.mem := rfl
@[simp] theorem State.unpacked_produced : (s.unpacked n).produced = s.produced + 8 * n := rfl
@[simp] theorem State.unpacked_consumed : (s.unpacked n).consumed = s.consumed := rfl
@[simp] theorem State.unpacked_out : (s.unpacked n).out = s.out := rfl
@[simp] theorem State.unpacked_fault : (s.unpacked n).fault = s.fault := rfl
@[simp] theorem State.unpacked_result : (s.unpacked n).result = s.result := rfl
@[simp] theorem State.unpacked_freeCount : (s.unpacked n).freeCount = s.freeCount := rfl
@[simp] theorem State.unpacked_outstanding : (s.unpacked n).outstanding = s.outstanding := rfl
@[simp] theorem State.unpacked_schedule : (s.unpacked n).schedule = s.schedule := rfl

end unpacked

theorem State.unpackByte_eq (s : State) :
    s.unpackByte =
      if s.remBytes = 1 then (s.unpacked 1).enterHold else s.unpacked 1 := by
  have hb : s.dataCodes 1 = codesOfByte s.cfg (s.readByte s.srcPtr) := by simp [State.dataCodes]
  have e : (s.putSlots (codesOfByte s.cfg (s.readByte s.srcPtr))).takeByte = s.unpacked 1 := by
    rw [State.putSlots_eq, State.unpacked, hb]; rfl
  have hrem : (s.unpacked 1).remBytes = 0 ↔ s.remBytes = 1 := by
    rw [State.unpacked_remBytes]; constructor <;> intro h <;> bv_omega
  rw [State.unpackByte, e]
  exact if_congr hrem rfl rfl

theorem State.dataCodes_succ (s : State) (n : Nat) :
    s.dataCodes (n + 1) = s.dataCodes 1 ++ (s.unpacked 1).dataCodes n := by
  have h : ∀ k, s.readByte (s.srcPtr + BitVec.ofNat 32 (k + 1)) =
      (s.unpacked 1).readByte ((s.unpacked 1).srcPtr + BitVec.ofNat 32 k) := by
    intro k
    have e : s.srcPtr + BitVec.ofNat 32 (k + 1) = s.srcPtr + BitVec.ofNat 32 1 + BitVec.ofNat 32 k := by bv_omega
    rw [e]; rfl
  simp only [State.dataCodes, List.range_succ_eq_map, List.flatMap_cons, List.flatMap_map, h, List.range_zero,
    List.map_nil, List.flatMap_nil, List.append_nil, State.unpacked_cfg]

theorem State.unpacked_unpacked (s : State) (n : Nat) : (s.unpacked 1).unpacked n = s.unpacked (n + 1) := by
  have e1 : s.wr + BitVec.ofNat 7 (8 * (n + 1)) = s.wr + 8 + BitVec.ofNat 7 (8 * n) := by bv_omega
  have e2 : s.srcPtr + BitVec.ofNat 32 (n + 1) = s.srcPtr + 1 + BitVec.ofNat 32 n := by bv_omega
  have e3 : s.remBytes - BitVec.ofNat 32 (n + 1) = s.remBytes - 1 - BitVec.ofNat 32 n := by bv_omega
  have e4 : s.produced + 8 * (n + 1) = s.produced + 8 + 8 * n := by omega
  conv_rhs => rw [State.unpacked, State.dataCodes_succ, ringPut_append, e1, e2, e3, e4]
  simp only [State.unpacked, State.length_dataCodes]
  rfl

/-- The number of bytes one run unpacks from `a` free slots (R82). -/
def State.bytesFor (s : State) (a : Nat) : Nat := min s.remBytes.toNat (a / 8)

/-- The Streaming phase of a run (R82, R83). -/
theorem streamLoop_eq {bound a : Nat} {s : State} (hb : a ≤ 8 * bound + 7) (hp : s.phase = .streaming)
    (hr : 1 ≤ s.remBytes.toNat) :
    streamLoop bound a s =
      (a - 8 * s.bytesFor a,
        if s.bytesFor a = s.remBytes.toNat then
          (s.unpacked (s.bytesFor a)).enterHold
        else s.unpacked (s.bytesFor a)) := by
  induction bound generalizing a s with
  | zero =>
    have h0 : s.bytesFor a = 0 := by simp [State.bytesFor]; omega
    have : ¬ 0 = s.remBytes.toNat := by omega
    simp [streamLoop, h0, this, State.unpacked, State.dataCodes, ringPut]
  | succ bound ih =>
    rw [streamLoop]
    by_cases ha : 8 ≤ a
    · simp only [hp, Config.bitsPerByte, ha, and_self, if_true]
      rw [State.unpackByte_eq]
      by_cases h1 : s.remBytes = 1
      · have hB : s.bytesFor a = 1 := by simp [State.bytesFor, h1]; omega
        have : s.remBytes.toNat = 1 := by simp [h1]
        simp only [h1, if_true, hB]
        cases bound <;> simp [streamLoop]
      · have h2 : 2 ≤ s.remBytes.toNat := by
          have : s.remBytes.toNat ≠ 1 := fun e => h1 (BitVec.eq_of_toNat_eq e)
          omega
        have hrem : (s.unpacked 1).remBytes.toNat = s.remBytes.toNat - 1 := by
          simp only [State.unpacked]; bv_omega
        have hB : s.bytesFor a = (s.unpacked 1).bytesFor (a - 8) + 1 := by
          simp only [State.bytesFor, hrem]; omega
        simp only [h1, if_false]
        rw [ih (s := s.unpacked 1) (by omega) hp (by omega), State.unpacked_unpacked, ← hB, hrem]
        congr 1
        · omega
        · have : (s.unpacked 1).bytesFor (a - 8) = s.remBytes.toNat - 1 ↔ s.bytesFor a = s.remBytes.toNat := by omega
          simp only [this]
    · have h0 : s.bytesFor a = 0 := by simp [State.bytesFor]; omega
      have : ¬ 0 = s.remBytes.toNat := by omega
      simp [ha, h0, this, State.unpacked, State.dataCodes, ringPut, Config.bitsPerByte]

/-- The state after `n` zero slots, before the exit test of R85. -/
def State.held (s : State) (n : Nat) : State :=
  { s with
    ring := ringPut s.ring s.wr (List.replicate n Config.zeroCode)
    wr := s.wr + BitVec.ofNat 7 n
    produced := s.produced + n
    remReset := s.remReset - BitVec.ofNat 16 n }

section held

variable (s : State) (n : Nat)

@[simp] theorem State.held_phase : (s.held n).phase = s.phase := rfl
@[simp] theorem State.held_wr : (s.held n).wr = s.wr + BitVec.ofNat 7 n := rfl
@[simp] theorem State.held_rd : (s.held n).rd = s.rd := rfl
@[simp] theorem State.held_srcPtr : (s.held n).srcPtr = s.srcPtr := rfl
@[simp] theorem State.held_remBytes : (s.held n).remBytes = s.remBytes := rfl
@[simp] theorem State.held_remReset : (s.held n).remReset = s.remReset - BitVec.ofNat 16 n := rfl
@[simp] theorem State.held_engRem : (s.held n).engRem = s.engRem := rfl
@[simp] theorem State.held_cmp : (s.held n).cmp = s.cmp := rfl
@[simp] theorem State.held_begun : (s.held n).begun = s.begun := rfl
@[simp] theorem State.held_engEn : (s.held n).engEn = s.engEn := rfl
@[simp] theorem State.held_refillEn : (s.held n).refillEn = s.refillEn := rfl
@[simp] theorem State.held_donePend : (s.held n).donePend = s.donePend := rfl
@[simp] theorem State.held_cfg : (s.held n).cfg = s.cfg := rfl
@[simp] theorem State.held_ring : (s.held n).ring = ringPut s.ring s.wr (List.replicate n Config.zeroCode) := rfl
@[simp] theorem State.held_mem : (s.held n).mem = s.mem := rfl
@[simp] theorem State.held_produced : (s.held n).produced = s.produced + n := rfl
@[simp] theorem State.held_consumed : (s.held n).consumed = s.consumed := rfl
@[simp] theorem State.held_out : (s.held n).out = s.out := rfl
@[simp] theorem State.held_fault : (s.held n).fault = s.fault := rfl
@[simp] theorem State.held_result : (s.held n).result = s.result := rfl
@[simp] theorem State.held_freeCount : (s.held n).freeCount = s.freeCount := rfl
@[simp] theorem State.held_outstanding : (s.held n).outstanding = s.outstanding := rfl
@[simp] theorem State.held_schedule : (s.held n).schedule = s.schedule := rfl

end held

theorem State.putZero_eq (s : State) :
    s.putZero = if s.remReset = 1 then (s.held 1).enterDraining else s.held 1 := by
  have e : (s.putSlot Config.zeroCode).countZero = s.held 1 := rfl
  have hrem : (s.held 1).remReset = 0 ↔ s.remReset = 1 := by
    rw [State.held_remReset]; constructor <;> intro h <;> bv_omega
  rw [State.putZero, e]
  exact if_congr hrem rfl rfl

theorem State.held_held (s : State) (n : Nat) : (s.held 1).held n = s.held (n + 1) := by
  have e1 : s.wr + BitVec.ofNat 7 (n + 1) = s.wr + 1 + BitVec.ofNat 7 n := by bv_omega
  have e2 : s.remReset - BitVec.ofNat 16 (n + 1) = s.remReset - 1 - BitVec.ofNat 16 n := by bv_omega
  have e3 : s.produced + (n + 1) = s.produced + 1 + n := by omega
  conv_rhs => rw [State.held, e1, e2, e3]
  simp [State.held, List.replicate, ringPut]

theorem holdLoop_of_ne {a : Nat} {s : State} (hp : s.phase ≠ .resettingHold) : holdLoop a s = s := by
  cases a <;> simp [holdLoop, hp]

/-- The ResettingHold phase of a run (R84, R85). -/
theorem holdLoop_eq {a : Nat} {s : State} (hp : s.phase = .resettingHold) (hr : 1 ≤ s.remReset.toNat) :
    holdLoop a s =
      if s.remReset.toNat ≤ a then
        (s.held s.remReset.toNat).enterDraining
      else s.held a := by
  induction a generalizing s with
  | zero =>
    have : ¬ s.remReset.toNat ≤ 0 := by omega
    simp [holdLoop, this, State.held, ringPut]
  | succ a ih =>
    rw [holdLoop, if_pos hp, State.putZero_eq]
    by_cases h1 : s.remReset = 1
    · have h1' : s.remReset.toNat = 1 := by simp [h1]
      rw [if_pos h1, if_pos (by omega), h1']
      exact holdLoop_of_ne (by simp)
    · have h2 : 2 ≤ s.remReset.toNat := by
        have : s.remReset.toNat ≠ 1 := fun e => h1 (BitVec.eq_of_toNat_eq e)
        omega
      have hrem : (s.held 1).remReset.toNat = s.remReset.toNat - 1 := by
        simp only [State.held]; bv_omega
      simp only [h1, if_false]
      rw [ih (s := s.held 1) hp (by omega), hrem, State.held_held, State.held_held]
      have e : s.remReset.toNat - 1 + 1 = s.remReset.toNat := by omega
      have : s.remReset.toNat - 1 ≤ a ↔ s.remReset.toNat ≤ a + 1 := by omega
      simp only [this, e]

theorem streamLoop_of_ne {bound a : Nat} {s : State} (hp : s.phase ≠ .streaming) : streamLoop bound a s = (a, s) := by
  cases bound <;> simp [streamLoop, hp]

/-- A run in Streaming that leaves source bytes unread (R82). -/
theorem State.refill_streaming_part {s : State} (hp : s.phase = .streaming) (hr : s.avail / 8 < s.remBytes.toNat) :
    s.refill = s.unpacked (s.avail / 8) := by
  have hB : s.bytesFor s.avail = s.avail / 8 := by simp [State.bytesFor]; omega
  have hne : s.bytesFor s.avail ≠ s.remBytes.toNat := by omega
  rw [State.refill, streamLoop_eq (by omega) hp (by omega)]
  rw [if_neg hne, hB]
  exact holdLoop_of_ne (by rw [State.unpacked_phase, hp]; decide)

/-- A run in Streaming that unpacks the last byte and goes on with zero slots (R83, R86). -/
theorem State.refill_streaming_last {s : State} (hp : s.phase = .streaming) (hr : 1 ≤ s.remBytes.toNat)
    (hle : s.remBytes.toNat ≤ s.avail / 8) :
    s.refill =
      holdLoop (s.avail - 8 * s.remBytes.toNat)
        (s.unpacked s.remBytes.toNat).enterHold := by
  have hB : s.bytesFor s.avail = s.remBytes.toNat := by simp [State.bytesFor]; omega
  rw [State.refill, streamLoop_eq (by omega) hp hr]
  simp only [hB, if_true]

/-- A run in ResettingHold (R84). -/
theorem State.refill_hold {s : State} (hp : s.phase = .resettingHold) : s.refill = holdLoop s.avail s := by
  rw [State.refill, streamLoop_of_ne (by simp [hp])]

/-- In Idle and Draining a run changes nothing (R81). -/
theorem State.refill_rest {s : State} (h1 : s.phase ≠ .streaming) (h2 : s.phase ≠ .resettingHold) : s.refill = s := by
  rw [State.refill, streamLoop_of_ne h1, holdLoop_of_ne h2]

/-- `t` differs from `s` in what a Refill run writes, and there only by `n` successive slot writes: the ring,
    WR and PRODUCED
by those writes; SRC_PTR, REM_BYTES, REM_RESET, STATE, and REFILL_EN if at all by clearing it (R81). -/
structure ProducerStep (s t : State) (n : Nat) : Prop where
  writes : ∃ codes : List Code, codes.length = n ∧ t.ring = ringPut s.ring s.wr codes
  wr : t.wr = s.wr + BitVec.ofNat 7 n
  produced : t.produced = s.produced + n
  disarm : t.refillEn = s.refillEn ∨ t.refillEn = false
  frame : t = { s with
    ring := t.ring, wr := t.wr, produced := t.produced, srcPtr := t.srcPtr, remBytes := t.remBytes,
    remReset := t.remReset, phase := t.phase, refillEn := t.refillEn }

theorem ProducerStep.refl (s : State) : ProducerStep s s 0 where
  writes := ⟨[], rfl, rfl⟩
  wr := by simp
  produced := rfl
  disarm := .inl rfl
  frame := rfl

theorem ProducerStep.trans {s t u : State} {m n : Nat} (h : ProducerStep s t m) (k : ProducerStep t u n) :
    ProducerStep s u (m + n) where
  writes := by
    obtain ⟨xs, hx, hxr⟩ := h.writes
    obtain ⟨ys, hy, hyr⟩ := k.writes
    refine ⟨xs ++ ys, by simp [hx, hy], ?_⟩
    rw [ringPut_append, hyr, hxr, h.wr, hx]
  wr := by rw [k.wr, h.wr]; bv_omega
  produced := by rw [k.produced, h.produced]; omega
  disarm := by
    rcases k.disarm with e | e
    · rw [e]; exact h.disarm
    · exact .inr e
  frame := by
    have hf := h.frame
    have kf := k.frame
    rw [hf] at kf
    exact kf

theorem State.unpackByte_step (s : State) : ProducerStep s s.unpackByte 8 := by
  rw [State.unpackByte_eq]
  split <;> exact ⟨⟨s.dataCodes 1, by simp, rfl⟩, rfl, rfl, .inl rfl, rfl⟩

theorem State.putZero_step (s : State) : ProducerStep s s.putZero 1 := by
  rw [State.putZero_eq]
  split
  · exact ⟨⟨[Config.zeroCode], rfl, rfl⟩, rfl, rfl, .inr rfl, rfl⟩
  · exact ⟨⟨[Config.zeroCode], rfl, rfl⟩, rfl, rfl, .inl rfl, rfl⟩

theorem streamLoop_step (bound a : Nat) (s : State) :
    ∃ n, (streamLoop bound a s).1 + n = a ∧ ProducerStep s (streamLoop bound a s).2 n := by
  induction bound generalizing a s with
  | zero => exact ⟨0, rfl, .refl s⟩
  | succ bound ih =>
    rw [streamLoop]
    split
    · rename_i h
      obtain ⟨n, hn, hs⟩ := ih (a - Config.bitsPerByte) s.unpackByte
      refine ⟨8 + n, ?_, s.unpackByte_step.trans hs⟩
      simp only [Config.bitsPerByte] at *
      omega
    · exact ⟨0, rfl, .refl s⟩

theorem holdLoop_step (a : Nat) (s : State) : ∃ n ≤ a, ProducerStep s (holdLoop a s) n := by
  induction a generalizing s with
  | zero => exact ⟨0, le_refl _, .refl s⟩
  | succ a ih =>
    rw [holdLoop]
    split
    · obtain ⟨n, hn, hs⟩ := ih s.putZero
      exact ⟨1 + n, by omega, s.putZero_step.trans hs⟩
    · exact ⟨0, by omega, .refl s⟩

/-- Everything a Refill run can do, from any state: at most AVAIL slot writes, and the Producer's own elements (R81,
    R90). -/
theorem State.refill_step (s : State) : ∃ n ≤ s.avail, ProducerStep s s.refill n := by
  obtain ⟨m, hm, hs⟩ := streamLoop_step s.avail s.avail s
  obtain ⟨n, hn, ht⟩ := holdLoop_step (streamLoop s.avail s.avail s).1 (streamLoop s.avail s.avail s).2
  exact ⟨m + n, by omega, hs.trans ht⟩

/-- What a Refill run leaves alone (R81). -/
theorem State.refill_frame (s : State) :
    s.refill = { s with
      ring := s.refill.ring, wr := s.refill.wr, produced := s.refill.produced, srcPtr := s.refill.srcPtr,
      remBytes := s.refill.remBytes, remReset := s.refill.remReset, phase := s.refill.phase,
      refillEn := s.refill.refillEn } := by
  obtain ⟨n, _, h⟩ := s.refill_step
  exact h.frame

@[simp] theorem State.refill_rd (s : State) : s.refill.rd = s.rd := by rw [s.refill_frame]
@[simp] theorem State.refill_engRem (s : State) : s.refill.engRem = s.engRem := by rw [s.refill_frame]
@[simp] theorem State.refill_cmp (s : State) : s.refill.cmp = s.cmp := by rw [s.refill_frame]
@[simp] theorem State.refill_begun (s : State) : s.refill.begun = s.begun := by rw [s.refill_frame]
@[simp] theorem State.refill_engEn (s : State) : s.refill.engEn = s.engEn := by rw [s.refill_frame]
@[simp] theorem State.refill_donePend (s : State) : s.refill.donePend = s.donePend := by rw [s.refill_frame]
@[simp] theorem State.refill_cfg (s : State) : s.refill.cfg = s.cfg := by rw [s.refill_frame]
@[simp] theorem State.refill_mem (s : State) : s.refill.mem = s.mem := by rw [s.refill_frame]
@[simp] theorem State.refill_consumed (s : State) : s.refill.consumed = s.consumed := by rw [s.refill_frame]
@[simp] theorem State.refill_out (s : State) : s.refill.out = s.out := by rw [s.refill_frame]
@[simp] theorem State.refill_fault (s : State) : s.refill.fault = s.fault := by rw [s.refill_frame]
@[simp] theorem State.refill_result (s : State) : s.refill.result = s.result := by rw [s.refill_frame]
@[simp] theorem State.refill_freeCount (s : State) : s.refill.freeCount = s.freeCount := by rw [s.refill_frame]
@[simp] theorem State.refill_outstanding (s : State) : s.refill.outstanding = s.outstanding := by rw [s.refill_frame]
@[simp] theorem State.refill_schedule (s : State) : s.refill.schedule = s.schedule := by rw [s.refill_frame]

/-- Bit 7 goes first (R63). -/
theorem getElem_codesOfByte (c : Config) (v : Byte) (i : Nat) (h : i < 8) :
    (codesOfByte c v)[i]'(by simpa using h) = codeOfBit c (v.getLsbD (7 - i)) := by
  simp only [codesOfByte]
  interval_cases i <;> rfl

theorem getElem?_flatMap_range {f : Nat → List Code} (hf : ∀ k, (f k).length = 8) (n j : Nat) (hj : j < 8 * n) :
    ((List.range n).flatMap f)[j]? = (f (j / 8))[j % 8]? := by
  induction n generalizing j with
  | zero => omega
  | succ n ih =>
    have hl : ((List.range n).flatMap f).length = 8 * n := by
      simp [List.length_flatMap, hf]; omega
    rw [List.range_succ, List.flatMap_append]
    by_cases h : j < 8 * n
    · rw [List.getElem?_append_left (by omega), ih j h]
    · rw [List.getElem?_append_right (by omega), hl]
      have h1 : j / 8 = n := by omega
      have h2 : j - 8 * n = j % 8 := by omega
      simp [h1, h2]

/-- The j-th code of the data: bit `7 − j mod 8` of byte `j / 8` (R63). -/
theorem State.getElem_dataCodes (s : State) (n j : Nat) (hj : j < 8 * n) :
    (s.dataCodes n)[j]'(by simpa using hj) =
      codeOfBit s.cfg ((s.readByte (s.srcPtr + BitVec.ofNat 32 (j / 8))).getLsbD (7 - j % 8)) := by
  have h := getElem?_flatMap_range (f := fun k => codesOfByte s.cfg (s.readByte (s.srcPtr + BitVec.ofNat 32 k)))
      (fun k => rfl) n j hj
  have h2 : (s.dataCodes n)[j]? = some (codeOfBit s.cfg ((s.readByte (s.srcPtr + BitVec.ofNat 32 (j / 8))).getLsbD
      (7 - j % 8))) := by
    rw [State.dataCodes, h, List.getElem?_eq_getElem (by simp; omega), getElem_codesOfByte _ _ _ (by omega)]
  rw [List.getElem?_eq_getElem (by simpa using hj)] at h2
  exact Option.some.inj h2

/-- The number of zero slots a run in Streaming writes after the last byte, from `a` free slots (R84, R86). -/
def State.zerosFor (s : State) (a : Nat) : Nat :=
  if s.remBytes.toNat ≤ a / 8 then min 40 (a - 8 * s.remBytes.toNat) else 0

/-- Everything a run in Streaming does with what it writes: `s.bytesFor s.avail` bytes, then, after the last one,
`s.zerosFor s.avail` zero slots (R82 to R86). -/
structure StreamRefill (s t : State) : Prop where
  ring : t.ring = ringPut s.ring s.wr (s.dataCodes (s.bytesFor s.avail) ++ List.replicate
      (s.zerosFor s.avail) Config.zeroCode)
  wr : t.wr = s.wr + BitVec.ofNat 7 (8 * s.bytesFor s.avail + s.zerosFor s.avail)
  produced : t.produced = s.produced + 8 * s.bytesFor s.avail + s.zerosFor s.avail
  srcPtr : t.srcPtr = s.srcPtr + BitVec.ofNat 32 (s.bytesFor s.avail)
  remBytes : t.remBytes.toNat = s.remBytes.toNat - s.bytesFor s.avail
  phase : t.phase = if s.bytesFor s.avail = s.remBytes.toNat then if s.zerosFor s.avail = 40 then .draining else
      .resettingHold else .streaming
  remReset : t.remReset = if s.bytesFor s.avail = s.remBytes.toNat then BitVec.ofNat 16
      (40 - s.zerosFor s.avail) else s.remReset
  refillEn : t.refillEn = if s.bytesFor s.avail = s.remBytes.toNat ∧ s.zerosFor s.avail = 40 then false else
      s.refillEn

theorem State.refill_stream_run (s : State) (hp : s.phase = .streaming)
    (hr : 1 ≤ s.remBytes.toNat) : StreamRefill s s.refill := by
  have hav : s.avail < 128 := (s.rd - s.wr - 1).isLt
  by_cases hl : s.remBytes.toNat ≤ s.avail / 8
  · have hB : s.bytesFor s.avail = s.remBytes.toNat := by simp [State.bytesFor]; omega
    have hZ : s.zerosFor s.avail = min 40 (s.avail - 8 * s.remBytes.toNat) := by simp [State.zerosFor, hl]
    have h := State.refill_streaming_last hp hr hl
    set u := (s.unpacked s.remBytes.toNat).enterHold with hu
    have hur : u.remReset.toNat = 40 := rfl
    rw [holdLoop_eq (by rfl) (by rw [hur]; omega), hur] at h
    have huring : ∀ k, ringPut u.ring u.wr (List.replicate k Config.zeroCode) = ringPut s.ring s.wr
        (s.dataCodes s.remBytes.toNat ++ List.replicate k Config.zeroCode) := by
      intro k; rw [ringPut_append]; simp [hu]
    by_cases h40 : 40 ≤ s.avail - 8 * s.remBytes.toNat
    · rw [if_pos h40] at h
      have hZ' : s.zerosFor s.avail = 40 := by omega
      constructor <;> rw [h] <;> simp only [hB, hZ', State.enterDraining_ring, State.held_ring, huring,
          State.enterDraining_wr, State.held_wr, State.enterDraining_produced, State.held_produced,
          State.enterDraining_srcPtr, State.held_srcPtr, State.enterDraining_remBytes, State.held_remBytes,
          State.enterDraining_phase, State.enterDraining_remReset, State.held_remReset, State.enterDraining_refillEn]
      · simp [hu]; bv_omega
      · simp [hu]
      · simp [hu]
      · simp [hu]
      · simp
      · simp [hu]
      · simp
    · rw [if_neg h40] at h
      have hZ' : s.zerosFor s.avail = s.avail - 8 * s.remBytes.toNat := by omega
      have hne : ¬ (s.avail - 8 * s.remBytes.toNat = 40) := by omega
      constructor <;> rw [h] <;> simp only [hB, hZ', State.held_ring, huring, State.held_wr, State.held_produced,
          State.held_srcPtr, State.held_remBytes, State.held_phase, State.held_remReset, State.held_refillEn, hne]
      · simp [hu]; bv_omega
      · simp [hu]
      · simp [hu]
      · simp [hu]
      · simp [hu]
      · simp [hu]; bv_omega
      · simp [hu]
  · have hB : s.bytesFor s.avail = s.avail / 8 := by simp [State.bytesFor]; omega
    have hZ : s.zerosFor s.avail = 0 := by simp [State.zerosFor, hl]
    have h := State.refill_streaming_part hp (by omega)
    have hne : ¬ (s.avail / 8 = s.remBytes.toNat) := by omega
    constructor <;> rw [h] <;> simp only [hB, hZ, State.unpacked_ring, State.unpacked_wr, State.unpacked_produced,
        State.unpacked_srcPtr, State.unpacked_remBytes, State.unpacked_phase, State.unpacked_remReset,
        State.unpacked_refillEn, hne]
    · simp
    · simp
    · simp
    · have := s.remBytes.isLt; bv_omega
    · simp [hp]
    · simp
    · simp

/-- Everything a run in ResettingHold does with what it writes: `z` zero slots (R84, R85). -/
structure HoldRefill (s t : State) (z : Nat) : Prop where
  ring : t.ring = ringPut s.ring s.wr (List.replicate z Config.zeroCode)
  wr : t.wr = s.wr + BitVec.ofNat 7 z
  produced : t.produced = s.produced + z
  srcPtr : t.srcPtr = s.srcPtr
  remBytes : t.remBytes = s.remBytes
  phase : t.phase = if s.remReset.toNat ≤ s.avail then .draining else .resettingHold
  remReset : t.remReset.toNat = s.remReset.toNat - z
  refillEn : t.refillEn = if s.remReset.toNat ≤ s.avail then false else s.refillEn

theorem State.refill_hold_run (s : State) (hp : s.phase = .resettingHold)
    (hr : 1 ≤ s.remReset.toNat) : HoldRefill s s.refill (min s.remReset.toNat s.avail) := by
  have h := State.refill_hold hp
  rw [holdLoop_eq hp hr] at h
  by_cases hl : s.remReset.toNat ≤ s.avail
  · rw [if_pos hl] at h
    have e : min s.remReset.toNat s.avail = s.remReset.toNat := by omega
    constructor <;> rw [h] <;> simp [hl]
  · rw [if_neg hl] at h
    have e : min s.remReset.toNat s.avail = s.avail := by omega
    constructor <;> rw [h] <;> simp [e, hl]
    · exact hp
    · have := s.remReset.isLt
      have h2 : s.avail < 128 := (s.rd - s.wr - 1).isLt
      bv_omega

theorem State.unpackByte_phase (s : State)
    (hp : s.phase = .streaming) : s.unpackByte.phase = .streaming ∨ s.unpackByte.phase = .resettingHold := by
  rw [State.unpackByte_eq]; split
  · right; rfl
  · left; exact hp

theorem streamLoop_phase (b a : Nat) (s : State) : (streamLoop b a s).2.phase = s.phase ∨ (s.phase = .streaming ∧
    (streamLoop b a s).2.phase = .resettingHold) := by
  induction b generalizing a s with
  | zero => left; rfl
  | succ b ih =>
    rw [streamLoop]; split
    · rename_i h
      rcases ih (a - Config.bitsPerByte) s.unpackByte with e | e
      · rcases State.unpackByte_phase s h.1 with k | k
        · left; rw [e, k, h.1]
        · right; exact ⟨h.1, by rw [e, k]⟩
      · right; exact ⟨h.1, e.2⟩
    · left; rfl

theorem holdLoop_phase (a : Nat) (s : State) : (holdLoop a s).phase = s.phase ∨ (s.phase = .resettingHold ∧
    (holdLoop a s).phase = .draining) := by
  induction a generalizing s with
  | zero => left; rfl
  | succ a ih =>
    rw [holdLoop]; split
    · rename_i h
      have hq : s.putZero.phase = .resettingHold ∨ s.putZero.phase = .draining := by
        rw [State.putZero_eq]; split
        · right; rfl
        · left; exact h
      rcases ih s.putZero with e | e
      · rcases hq with k | k
        · left; rw [e, k, h]
        · right; exact ⟨h, by rw [e, k]⟩
      · right; exact ⟨h, e.2⟩
    · left; rfl

/-- A run moves STATE forward only (R20, R81). -/
theorem State.refill_phase_cases (s : State) : s.refill.phase = s.phase ∨ (s.phase = .streaming ∧
    (s.refill.phase = .resettingHold ∨ s.refill.phase = .draining)) ∨
    (s.phase = .resettingHold ∧ s.refill.phase = .draining) := by
  have h1 := streamLoop_phase s.avail s.avail s
  have h2 := holdLoop_phase (streamLoop s.avail s.avail s).1 (streamLoop s.avail s.avail s).2
  have e : s.refill = holdLoop (streamLoop s.avail s.avail s).1 (streamLoop s.avail s.avail s).2 := rfl
  rw [← e] at h2
  rcases h1 with h1 | ⟨h1, h1'⟩ <;> rcases h2 with h2 | ⟨h2, h2'⟩
  · left; rw [h2, h1]
  · right; right; exact ⟨by rw [← h1, h2], h2'⟩
  · right; left; exact ⟨h1, .inl (by rw [h2, h1'])⟩
  · right; left; exact ⟨h1, .inr h2'⟩

end Sys2Proof.Machine
end

