-- ==== Sys2Proof/Machine/Assembler.lean ====
section
/-! DEFINITION. The assembler syntax of a schedule (R71, R72): one operation per line, the mnemonic in capitals, operands
separated by a comma, `0x` for hexadecimal numbers (R6), a comment from `;` to the end of the line. -/

namespace Sys2Proof.Machine

/-- A blank between the parts of a line (log 17). -/
def isBlank (c : Char) : Bool := c == ' ' || c == '\t'

/-- The line up to its comment. -/
def stripComment (line : List Char) : List Char := line.takeWhile fun c => c != ';'

/-- A piece of a line without the blanks around it. -/
def trimBlanks (cs : List Char) : List Char := ((cs.dropWhile isBlank).reverse.dropWhile isBlank).reverse

/-- The pieces between commas. -/
def splitCommas : List Char → List (List Char)
  | [] => [[]]
  | c :: rest =>
    if c == ',' then [] :: splitCommas rest
    else
      match splitCommas rest with
      | [] => [[c]]
      | piece :: pieces => (c :: piece) :: pieces

/-- The value of a digit below the base. -/
def digitValue (base : Nat) (c : Char) : Option Nat :=
  let v :=
    if '0'.toNat ≤ c.toNat ∧ c.toNat ≤ '9'.toNat then some (c.toNat - '0'.toNat)
    else if 'a'.toNat ≤ c.toNat ∧ c.toNat ≤ 'f'.toNat then some (c.toNat - 'a'.toNat + 10)
    else if 'A'.toNat ≤ c.toNat ∧ c.toNat ≤ 'F'.toNat then some (c.toNat - 'A'.toNat + 10)
    else none
  v.filter fun d => decide (d < base)

/-- The number of a list of digits, most significant first. -/
def digitsValue (base : Nat) : List Char → Nat → Option Nat
  | [], acc => some acc
  | c :: rest, acc =>
    match digitValue base c with
    | some d => digitsValue base rest (base * acc + d)
    | none => none

/-- A number: hexadecimal with `0x`, decimal otherwise (R6). -/
def parseNumber : List Char → Option Nat
  | [] => none
  | '0' :: 'x' :: d :: rest => digitsValue 16 (d :: rest) 0
  | d :: rest => digitsValue 10 (d :: rest) 0

/-- A byte address operand (R69, R71). -/
def parseAddr (cs : List Char) : Option Addr :=
  (parseNumber cs).bind fun n => if n < 2 ^ 32 then some (BitVec.ofNat 32 n) else none

/-- A data byte operand, `0 .. 255` (R71). -/
def parseByte (cs : List Char) : Option Byte :=
  (parseNumber cs).bind fun n => if n < 2 ^ 8 then some (BitVec.ofNat 8 n) else none

/-- The operation of a mnemonic and its operands (R71, R72). -/
def parseOperation (mnemonic : List Char) (operands : List (List Char)) : Option Pseudo :=
  match mnemonic, operands with
  | ['B', 'E', 'G', 'I', 'N'], [] => some (.op .begin)
  | ['S', 'T', 'A', 'R', 'T'], [src] => (parseAddr src).map fun a => .op (.start a)
  | ['B', 'U', 'S', 'Y'], [] => some (.op .busy)
  | ['R', 'D', 'S', 'T', 'A', 'T', 'E'], [] => some (.op .rdstate)
  | ['P', 'O', 'K', 'E'], [addr, data] =>
    (parseAddr addr).bind fun a => (parseByte data).map fun d => .op (.poke a d)
  | ['T', 'I', 'C', 'K'], [] => some (.op .tick)
  | ['C', 'O', 'N', 'S', 'U', 'M', 'E'], [] => some (.op .consume)
  | ['C', 'O', 'M', 'P', 'L', 'E', 'T', 'E'], [] => some (.op .complete)
  | 'C' :: 'O' :: 'N' :: 'S' :: 'U' :: 'M' :: 'E' :: '*' :: k, [] => (parseNumber k).map fun n => .consumeTimes n
  | ['W', 'A', 'I', 'T', 'I', 'D', 'L', 'E'], [] => some .waitIdle
  | ['T', 'R', 'A', 'N', 'S', 'M', 'I', 'T'], [src] => (parseAddr src).map fun a => .transmit a
  | ['T', 'R', 'A', 'N', 'S', 'M', 'I', 'T', '2'], [front, back] =>
    (parseAddr front).bind fun f => (parseAddr back).map fun b => .transmit2 f b
  | _, _ => none

/-- One line: `some none` for a line with no operation, `none` for a line that is not of the syntax (R71). -/
def parseLine (line : List Char) : Option (Option Pseudo) :=
  let body := trimBlanks (stripComment line)
  let mnemonic := body.takeWhile fun c => !isBlank c
  let rest := trimBlanks (body.dropWhile fun c => !isBlank c)
  let operands := if rest.isEmpty then [] else (splitCommas rest).map trimBlanks
  if body.isEmpty then some none else (parseOperation mnemonic operands).map some

/-- The pseudo-operations of a schedule's lines; `none` if a line is not of the syntax (R71). -/
def assemble : List (List Char) → Option (List Pseudo)
  | [] => some []
  | line :: rest =>
    match parseLine line, assemble rest with
    | some none, some ps => some ps
    | some (some p), some ps => some (p :: ps)
    | _, _ => none

end Sys2Proof.Machine
end

