-- ==== Sys2Proof/Tests/Slice0.lean ====
section
/-! SUPPORT. Tests: ill-formed words and configurations, decoding, small steps with the expected results of
95_test_vectors.md (the vector's name stands in each comment), and a witness for the hypotheses of every obligation. -/

namespace Sys2Proof.Tests

open Sys2Proof.Machine

/-! ## Ill-formed terms -/

/-- R70 (a): `opc` 0x06. -/
theorem test_illformed_opc : OpFields.illegal ⟨0x06, 0, 0⟩ = some .unassignedOpc := by decide

/-- R70 (b): BUSY with `a ≠ 0`. -/
theorem test_illformed_a : OpFields.illegal ⟨0x03, 0xFFFFFFFF, 0⟩ = some .operandANotZero := by decide

/-- R70 (c): START with `b ≠ 0`. -/
theorem test_illformed_b : OpFields.illegal ⟨0x02, 0x00001000, 0x01⟩ = some .operandBNotZero := by decide

/-- R5 (d). -/
theorem test_config_slow : RawConfig.refusal ⟨1, 0x26, 0x13, 0x3C, .slow⟩ = some .slowSpeed := by decide

/-- R5 (b). -/
theorem test_config_zero_code : RawConfig.refusal ⟨1, 0x26, 0, 0x3C, .fast⟩ = some .zeroShortCode := by decide

/-- R5 (a): equal codes. -/
theorem test_config_order : RawConfig.refusal ⟨1, 0x26, 0x26, 0x3C, .fast⟩ = some .codesNotOrdered := by decide

/-- R5 (a): a code as long as the slot. -/
theorem test_config_slot : RawConfig.refusal ⟨1, 0x3C, 0x13, 0x3C, .fast⟩ = some .codeNotBelowPeriod := by decide

/-- R5 (a): PERIOD above 0xFFFF. -/
theorem test_config_period : RawConfig.refusal ⟨1, 0x26, 0x13, 0x10000, .fast⟩ = some .periodTooLong := by decide

/-- R5 (c), R4: one LED above N_MAX. -/
theorem test_config_leds : RawConfig.refusal ⟨178956969, 0x26, 0x13, 0x3C, .fast⟩ = some .tooManyLeds := by decide

/-- R4, R5: TC1 with N_MAX LEDs is admitted. -/
theorem test_config_max : RawConfig.refusal ⟨178956968, 0x26, 0x13, 0x3C, .fast⟩ = none := by decide

/-! ## Decoding, each word written out from R67 and R68 -/

theorem test_decode_begin :
    decode 0b00000001_00000000000000000000000000000000_00000000 = .ok .begin := by decide

theorem test_decode_start :
    decode 0b00000010_00000000000000000001000000000000_00000000 = .ok (.start 0x1000) := by decide

theorem test_decode_busy :
    decode 0b00000011_00000000000000000000000000000000_00000000 = .ok .busy := by decide

theorem test_decode_rdstate :
    decode 0b00000100_00000000000000000000000000000000_00000000 = .ok .rdstate := by decide

theorem test_decode_poke :
    decode 0b00000101_10000000000000000001000000000001_10100101 = .ok (.poke 0x80001001 0xA5) := by decide

theorem test_decode_tick :
    decode 0b00010000_00000000000000000000000000000000_00000000 = .ok .tick := by decide

theorem test_decode_consume :
    decode 0b00100000_00000000000000000000000000000000_00000000 = .ok .consume := by decide

theorem test_decode_complete :
    decode 0b00100001_00000000000000000000000000000000_00000000 = .ok .complete := by decide

/-- R67: the same words through the host's numbering; a word below `nbits` bits reads as zero above them. -/
theorem test_decode_table_word :
    decodeTableWord 48 0x0500001000A5 = some (.poke 0x1000 0xA5) ∧ decodeTableWord 48 0x220000000000 = none ∧
      decodeTableWord 8 0x00 = none := by decide

/-! ## States the tests start from -/

/-- TC1 (R5) with `n` LEDs. -/
def tc1 (n : BitVec 32) (h : n.toNat ≤ Config.nMax) : Config where
  n := n
  longCode := 0x0026
  shortCode := 0x0013
  period := 0x003C
  shortPos := by decide
  shortLtLong := by decide
  longLtPeriod := by decide
  countFits := h

def noLeds : Config := tc1 0 (by decide)
def oneLed : Config := tc1 1 (by decide)
def sixLeds : Config := tc1 6 (by decide)

/-- A begun block at rest. -/
def idle (c : Config) : State := { State.reset with begun := true, cfg := c }

/-- The source bytes of P1 and of P2. -/
def bytesP1 : Memory := [(0x1000, 0xA5), (0x1002, 0xFF)]
def bytesP2 : Memory :=
  [(0x3000, 0x80), (0x3001, 0x01), (0x3002, 0xFF), (0x3004, 0xAA), (0x3005, 0x55), (0x3006, 0x0F), (0x3007, 0xF0),
    (0x3008, 0x12)]

/-- P1 before its START. -/
def restP1 : State := { idle oneLed with mem := bytesP1 }

/-- P2 before its START. -/
def restP2 : State := { idle sixLeds with mem := bytesP2 }

/-- The cycle of P2 at point (a), with the ring left out. -/
def streamingP2 : State :=
  { idle sixLeds with
    phase := .streaming, wr := 120, srcPtr := 0x300F, remBytes := 3, engRem := 184, engEn := true, refillEn := true,
    produced := 120, mem := bytesP2 }

/-- A cycle of six LEDs with nothing produced yet: the prefill put off. -/
def streamingBare : State :=
  { idle sixLeds with
    phase := .streaming, srcPtr := 0x3000, remBytes := 18, engRem := 184, engEn := true, refillEn := true,
    mem := bytesP2 }

/-- ResettingHold as in T8. -/
def holdT8 : State :=
  { idle oneLed with phase := .resettingHold, wr := 10, rd := 14, remReset := 40, engEn := true, refillEn := true }

/-- P1 at point (d): the last CONSUME done. -/
def drainedP1 : State :=
  { idle oneLed with
    phase := .draining, wr := 64, rd := 64, srcPtr := 0x1003, engEn := true, donePend := true, produced := 64,
    consumed := 64 }

/-- P1 one CONSUME earlier, REFILL_EN still set (no TICK has occurred). -/
def lastSlotP1 : State :=
  { drainedP1 with
    rd := 63, engRem := 1, donePend := false, consumed := 63, refillEn := true,
    ring := (Vector.replicate Config.cap none).set 63 (some 0x0000) }

/-- Run operations, or stay where one does not step. -/
def after (ops : List Instr) (s : State) : State :=
  match execAll ops s with
  | .next t => t
  | .fault _ => s
  | .refused _ => s

/-- Every operation steps. -/
def steps (ops : List Instr) (s : State) : Bool :=
  match execAll ops s with
  | .next _ => true
  | .fault _ => false
  | .refused _ => false

theorem execAll_of_steps {ops : List Instr} {s : State} (h : steps ops s = true) :
    execAll ops s = .next (after ops s) := by
  unfold after
  unfold steps at h
  cases e : execAll ops s with
  | next t => rfl
  | fault r => rw [e] at h; cases h
  | refused r => rw [e] at h; cases h

/-! ## Operand forms and addresses -/

/-- 2.1, byte to codes: 0xA5 and 0x80. -/
theorem test_codes_of_byte :
    codesOfByte oneLed 0xA5 = [0x26, 0x13, 0x26, 0x13, 0x13, 0x26, 0x13, 0x26] ∧
      codesOfByte oneLed 0x80 = [0x26, 0x13, 0x13, 0x13, 0x13, 0x13, 0x13, 0x13] := by decide

/-- 2.2, AVAIL. -/
theorem test_avail :
    State.avail { State.reset with wr := 5, rd := 5 } = 127 ∧ State.avail { State.reset with wr := 5, rd := 6 } = 0 ∧
      State.avail { State.reset with wr := 5, rd := 4 } = 126 ∧
      State.avail { State.reset with wr := 0, rd := 8 } = 7 := by decide

/-- R32, R65: the numbered view of P1 at point (d). -/
theorem test_xreg :
    drainedP1.xreg 0 = some 3 ∧ drainedP1.xreg 1 = some 64 ∧ drainedP1.xreg 3 = some 0x1003 ∧
      drainedP1.xreg 8 = some 0b1011 ∧ drainedP1.xreg 9 = some 1 ∧ drainedP1.xreg 10 = none := by decide

/-- R108: the pulse of a 1-bit, of a 0-bit and of a reset-hold slot. -/
theorem test_pulse :
    slotPulse oneLed 0x0026 = ⟨38, 22⟩ ∧ slotPulse oneLed 0x0013 = ⟨19, 41⟩ ∧ slotPulse oneLed 0x0000 = ⟨0, 60⟩ := by
  decide

/-! ## One step of each operation -/

/-- H1, H2. -/
theorem test_begin :
    (after [.begin] State.reset).begun = true ∧ (after [.begin] State.reset).fault = [] ∧
      (after [.begin, .begin] State.reset).fault = [.contract .begin] := by decide

/-- P1 (a) and its ring. -/
theorem test_start_prefills :
    (after [.start 0x1000] restP1).phase = .draining ∧ (after [.start 0x1000] restP1).wr = 64 ∧
      (after [.start 0x1000] restP1).srcPtr = 0x1003 ∧ (after [.start 0x1000] restP1).engRem = 64 ∧
      (after [.start 0x1000] restP1).refillEn = true ∧
      (List.range 10).map (fun j => (after [.start 0x1000] restP1).readSlot (BitVec.ofNat 7 j)) =
        [0x26, 0x13, 0x26, 0x13, 0x13, 0x26, 0x13, 0x26, 0x13, 0x13] := by decide +kernel

/-- H3, H5, H8, H9, H10. -/
theorem test_start_cases :
    (after [.start 0x1000] State.reset).fault = [.contract .start] ∧
      (after [.start 0x1000] (idle noLeds)) = idle noLeds ∧
      (after [.start 0x1000] holdT8) = { holdT8 with outstanding := some 0x1000 } ∧
      (after [.start 0xFFFFFFFD] (idle oneLed)).srcPtr = 0 ∧
      (after [.start 0xFFFFFFFE] (idle oneLed)) = { idle oneLed with fault := [.contract .start] } := by decide +kernel

/-- H6 and H7. -/
theorem test_queries :
    (after [.busy] (idle oneLed)).result = 0 ∧ (after [.busy] streamingP2).result = 1 ∧
      (after [.busy] holdT8).result = 0 ∧ (after [.busy] drainedP1).result = 0 ∧
      (after [.rdstate] (idle oneLed)).result = 0 ∧ (after [.rdstate] streamingP2).result = 1 ∧
      (after [.rdstate] holdT8).result = 2 ∧ (after [.rdstate] drainedP1).result = 3 := by decide

/-- H4, H11, H12, H13. -/
theorem test_poke :
    (after [.poke 0x1000 0xA5] State.reset).fault = [.contract .poke] ∧
      (after [.poke 0x1000 0xA5] State.reset).readByte 0x1000 = 0xA5 ∧
      (after [.poke 0x3000 0x00] streamingP2).fault = [.srcMutation 0x3000] ∧
      (after [.poke 0x3011 0x00] streamingP2).fault = [.srcMutation 0x3011] ∧
      (after [.poke 0x3012 0x00] streamingP2).fault = [] ∧ (after [.poke 0x2FFF 0x00] streamingP2).fault = [] := by
  decide

/-- H14, and the canonical form of the memory: writing what an unlisted address reads as removes the entry. -/
theorem test_poke_removes :
    after [.poke 0x1000 0x00] restP1 = { restP1 with mem := [(0x1002, 0xFF)] } ∧
      Memory.wf (after [.poke 0x1000 0x00] restP1).mem = true := by decide +kernel

/-- T1, T2: seven free slots are not enough for a byte, eight are. -/
theorem test_tick_streaming :
    after [.tick] { streamingP2 with rd := 0 } = { streamingP2 with rd := 0 } ∧
      (after [.tick] { streamingP2 with rd := 1, mem := [(0x300F, 0x12)] }).wr = 0 ∧
      (after [.tick] { streamingP2 with rd := 1, mem := [(0x300F, 0x12)] }).remBytes = 2 ∧
      (List.range 8).map (fun j =>
          (after [.tick] { streamingP2 with rd := 1, mem := [(0x300F, 0x12)] }).readSlot (BitVec.ofNat 7 (120 + j))) =
        [0x13, 0x13, 0x13, 0x26, 0x13, 0x13, 0x26, 0x13] := by decide +kernel

/-- T3, T8, T12. -/
theorem test_tick_hold :
    (after [.tick] { streamingP2 with rd := 30 }).wr = 29 ∧
      (after [.tick] { streamingP2 with rd := 30 }).remReset = 27 ∧
      (after [.tick] { streamingP2 with rd := 30 }).phase = .resettingHold ∧
      (after [.tick] holdT8).wr = 13 ∧ (after [.tick] holdT8).remReset = 37 ∧
      after [.tick] lastSlotP1 = { lastSlotP1 with refillEn := false } := by decide +kernel

/-- E2. -/
theorem test_consume_last :
    exec .consume drainedP1 = .refused (.notEnabled "CONSUME") ∧
      (after [.consume] lastSlotP1).cmp = 0x0000 ∧ (after [.consume] lastSlotP1).rd = 64 ∧
      (after [.consume] lastSlotP1).engRem = 0 ∧ (after [.consume] lastSlotP1).donePend = true ∧
      (after [.consume] lastSlotP1).fault = [] := ⟨rfl, by decide +kernel⟩

/-- E5: the value read is free, so CMP and OUT are not looked at; RD, ENG_REM and the mark are. -/
theorem test_consume_underrun :
    (exec .consume { lastSlotP1 with rd := 120, engRem := 64, consumed := 120, produced := 120 }) =
      .next { lastSlotP1 with
        rd := 121, engRem := 63, consumed := 121, produced := 120, cmp := Config.ringPowerOn 120,
        out := [Config.ringPowerOn 120], fault := [.underrun 120] } := rfl

/-- E6, E7, E8. -/
theorem test_complete :
    exec .complete (idle oneLed) = .refused (.notEnabled "COMPLETE") ∧
      after [.complete] drainedP1 = { drainedP1 with phase := .idle, engEn := false, donePend := false } ∧
      after [.complete] { streamingP2 with donePend := true } =
        { streamingP2 with phase := .idle, engEn := false, donePend := false } := ⟨rfl, by decide +kernel⟩

/-- R74, R141: one step from reset; an illegal word; no word. -/
theorem test_step :
    step (State.reset.withFetchWord 48 0x010000000000) = .next State.reset.initialise ∧
      step (State.reset.withFetchWord 48 0x220000000000) = .refused (.illegal .unassignedOpc) ∧
      step State.reset = .fault .scheduleEnd := ⟨rfl, rfl, rfl⟩

/-! ## Assembler and pseudo-operations -/

/-- R71: a line of P1 with its comment, an empty line, a line that is not of the syntax. -/
theorem test_assemble :
    parseLine ['P', 'O', 'K', 'E', ' ', '0', 'x', '1', '0', '0', '0', ',', ' ', '1', '6', '5', ' ', ';', 'x'] =
        some (some (.op (.poke 0x1000 0xA5))) ∧
      parseLine ['C', 'O', 'N', 'S', 'U', 'M', 'E', '*', '5', '6'] = some (some (.consumeTimes 56)) ∧
      parseLine [' ', ';', 'x'] = some none ∧ parseLine ['S', 'T', 'A', 'R', 'T'] = none ∧
      parseLine ['P', 'O', 'K', 'E', ' ', '1', ',', '2', '5', '6'] = none := by decide

/-- R72: TRANSMIT2 at a block at rest, one LED. -/
theorem test_expand :
    restP1.expand (.transmit2 0x1000 0x2000) =
        [.notStreamingHere, .op (.poke 0x2000 0xA5), .op (.poke 0x2001 0x00), .op (.poke 0x2002 0xFF), .idleHere,
          .op (.start 0x2000)] ∧
      (idle noLeds).expand (.transmit 0x1000) = [] ∧ execItems [.idleHere] streamingP2 = none := by decide +kernel

/-! ## Witnesses: every hypothesis of an obligation is met, each clause at a boundary -/

theorem idle_inv (c : Config) : (idle c).CycleInv := by
  constructor <;> simp [idle, State.reset, State.powerOn, Config.zeroCode]

theorem drainedP1_inv : drainedP1.CycleInv := by
  constructor <;>
    simp [drainedP1, idle, State.reset, State.powerOn, Config.zeroCode, Config.totalSlots, Config.totalBytes,
      Config.bitsPerLed, Config.bytesPerLed, Config.resetBits, oneLed, tc1]
  all_goals decide

theorem streamingBare_inv : streamingBare.CycleInv := by
  constructor <;>
    simp [streamingBare, idle, State.reset, State.powerOn, Config.totalSlots, Config.totalBytes, State.sourceBase,
      Config.bitsPerLed, Config.bytesPerLed, Config.resetBits, sixLeds, tc1]

/-- P2 at point (b). -/
def streamingB : State := { streamingP2 with rd := 30, consumed := 30, engRem := 154, cmp := 0x0013 }

theorem streamingB_inv : streamingB.CycleInv := by
  constructor <;>
    simp [streamingB, streamingP2, idle, State.reset, State.powerOn, Config.totalSlots, Config.totalBytes,
      State.sourceBase, Config.bitsPerLed, Config.bytesPerLed, Config.resetBits, sixLeds, tc1]
  all_goals decide

theorem witness_EncodeOfDecode : decode 0x05FFFFFFFFFF = .ok (.poke 0xFFFFFFFF 0xFF) := by decide

theorem witness_LegalIffRowMatches :
    (∃ r ∈ opcodeMap, (0x05FFFFFFFFFF : OpWord) &&& r.mask = r.pattern) ∧
      (¬ ∃ r ∈ opcodeMap, (0x020000100001 : OpWord) &&& r.mask = r.pattern) ∧
      { State.reset with schedule := [0x020000100001] }.schedule = 0x020000100001 :: [] := by decide

theorem witness_RowsNameTheOperation :
    (⟨"START", 0x020000000000, 0xFF00000000FF⟩ : OpRow) ∈ opcodeMap ∧
      (0x02FFFFFFFF00 : OpWord) &&& 0xFF00000000FF = 0x020000000000 := by decide

theorem witness_StepRunsDecodedOperation :
    (State.reset.putWord 0x010000000000).schedule = 0x010000000000 :: [] ∧ decode 0x010000000000 = .ok .begin ∧
      State.hostBlocked (State.reset.putWord 0x010000000000) .begin = false ∧ State.reset.schedule = [] := by decide

theorem witness_OutstandingStartBlocksHost :
    { drainedP1 with outstanding := some 0x1000 }.outstanding = some 0x1000 ∧
      (Instr.start 0x1001).agent = .host ∧ Instr.start 0x1001 ≠ .start 0x1000 ∧ Instr.complete.agent ≠ .host := by
  decide

theorem witness_EventsStepExactlyWhenEnabled :
    (lastSlotP1.begun = true ∧ lastSlotP1.refillEn = true ∧ lastSlotP1.engEn = true ∧ lastSlotP1.engRem.toNat = 1) ∧
      (drainedP1.refillEn = false ∧ drainedP1.engRem.toNat = 0 ∧ drainedP1.donePend = true) ∧
      lastSlotP1.donePend = false := by decide

theorem witness_PowerOnDefinesOnlyBegun :
    State.reset.begun = false ∧ { State.reset with wr := 5, phase := .draining, donePend := true }.begun = false ∧
      { State.reset with wr := 5, phase := .draining, donePend := true }.ring = State.reset.ring := by decide +kernel

theorem witness_BeginInitialisesOnce : drainedP1.begun = true ∧ State.reset.begun = false := by decide

theorem witness_StartFollowsItsCases :
    State.reset.begun = false ∧ ((idle noLeds).begun = true ∧ (idle noLeds).cfg.n = 0) ∧
      ((idle oneLed).cfg.n ≠ 0 ∧ 2 ^ 32 < (0xFFFFFFFE : Addr).toNat + 3 * (idle oneLed).cfg.n.toNat) ∧
      ((0xFFFFFFFD : Addr).toNat + 3 * holdT8.cfg.n.toNat ≤ 2 ^ 32 ∧ holdT8.begun = true ∧ holdT8.phase ≠ .idle) ∧
      ((0xFFFFFFFD : Addr).toNat + 3 * (idle oneLed).cfg.n.toNat ≤ 2 ^ 32 ∧ (idle oneLed).phase = .idle) := by decide

theorem witness_StartPrefillsTheRing :
    ((idle oneLed).begun = true ∧ (idle oneLed).cfg.n ≠ 0 ∧
      (0xFFFFFFFD : Addr).toNat + 3 * (idle oneLed).cfg.n.toNat ≤ 2 ^ 32 ∧ (idle oneLed).phase = .idle) ∧
      (15 < 3 * (idle sixLeds).cfg.n.toNat ∧ 3 * (idle oneLed).cfg.n.toNat ≤ 15) := by decide

theorem witness_HeldStartIsReleasedByComplete :
    drainedP1.begun = true ∧ drainedP1.cfg.n ≠ 0 ∧ (0x1000 : Addr).toNat + 3 * drainedP1.cfg.n.toNat ≤ 2 ^ 32 ∧
      drainedP1.phase ≠ .idle ∧ drainedP1.donePend = true := by decide

theorem witness_AvailIsFreeSpace :
    (idle oneLed).wr = (idle oneLed).rd ∧ { idle oneLed with wr := 127 }.wr = { idle oneLed with wr := 127 }.rd - 1 := by
  decide

theorem witness_TickRunsOneRefill :
    (streamingP2.begun = true ∧ streamingP2.refillEn = true ∧ streamingP2.phase = .streaming) ∧
      (lastSlotP1.begun = true ∧ lastSlotP1.refillEn = true ∧ lastSlotP1.phase = .draining) := by decide

theorem witness_TickAtRestDisarms :
    (lastSlotP1.begun = true ∧ lastSlotP1.refillEn = true ∧ lastSlotP1.phase = .draining) ∧
      restP1.refillEn = false ∧ steps [.start 0x1000] restP1 = true ∧
      (after [.start 0x1000] restP1).refillEn = true := by decide +kernel

theorem witness_TickUnpacksBytes :
    (streamingBare.begun = true ∧ streamingBare.refillEn = true ∧ streamingBare.phase = .streaming ∧
      1 ≤ streamingBare.remBytes.toNat ∧ min streamingBare.remBytes.toNat (streamingBare.avail / 8) = 15) ∧
      (streamingB.refillEn = true ∧ 1 ≤ streamingB.remBytes.toNat ∧
        min streamingB.remBytes.toNat (streamingB.avail / 8) = streamingB.remBytes.toNat ∧
        min 40 (streamingB.avail - 8 * 3) = 13) := by decide

theorem witness_TickWritesResetHold :
    (holdT8.begun = true ∧ holdT8.refillEn = true ∧ holdT8.phase = .resettingHold ∧ holdT8.avail < holdT8.remReset.toNat) ∧
      (1 ≤ { holdT8 with remReset := 3 }.remReset.toNat ∧ { holdT8 with remReset := 3 }.avail = 3) := by decide

theorem witness_TickWithoutRoomChangesNothing :
    (streamingP2.begun = true ∧ streamingP2.refillEn = true ∧ streamingP2.phase = .streaming ∧ streamingP2.avail = 7) ∧
      (holdT8.begun = true ∧ holdT8.refillEn = true ∧ holdT8.phase = .resettingHold ∧
        { holdT8 with rd := 11 }.avail = 0) := by decide

theorem witness_RefillNeverOverruns :
    exec .tick streamingB = .next streamingB.refill ∧ streamingB.avail = 37 ∧ streamingB.avail ≤ 127 :=
  ⟨rfl, by decide, by decide⟩

theorem witness_TickFrame : exec .tick holdT8 = .next holdT8.refill := rfl

theorem witness_WorkedExampleA5 :
    let s := { streamingBare with srcPtr := 0x1000, remBytes := 1, mem := bytesP1 }
    s.phase = .streaming ∧ s.remBytes = 1 ∧ s.readByte s.srcPtr = 0xA5 ∧ s.wr = s.rd ∧ s.begun = true ∧
      s.refillEn = true := by decide

theorem witness_ConsumeMovesOneSlot :
    (lastSlotP1.begun = true ∧ lastSlotP1.engEn = true ∧ 0 < lastSlotP1.engRem.toNat ∧
      lastSlotP1.consumed ≠ lastSlotP1.produced) ∧
      (0 < streamingBare.engRem.toNat ∧ streamingBare.engEn = true ∧ streamingBare.consumed = streamingBare.produced) := by
  decide

theorem witness_EngineStopsAtZeroCount : drainedP1.engRem = 0 ∧ drainedP1.engEn = true := by decide

theorem witness_CompleteReturnsToIdle : drainedP1.begun = true ∧ drainedP1.donePend = true := by decide

theorem witness_CompletionFindsDraining :
    drainedP1.CycleInv ∧ drainedP1.underrun = false ∧ drainedP1.donePend = true := ⟨drainedP1_inv, rfl, rfl⟩

theorem witness_OnlyCompleteReentersIdle :
    (drainedP1.begun = true ∧ steps [.complete] drainedP1 = true ∧ drainedP1.phase ≠ .idle ∧
      (after [.complete] drainedP1).phase = .idle) ∧
      (Instr.complete ∉ [Instr.tick, .consume] ∧ steps [.tick, .consume] lastSlotP1 = true ∧ lastSlotP1.cfg.n ≠ 0 ∧
        lastSlotP1.phase ≠ .idle ∧ (0xFFFFFFFD : Addr).toNat + 3 * lastSlotP1.cfg.n.toNat ≤ 2 ^ 32) := by decide +kernel

theorem witness_BusyAnswersStreaming :
    streamingP2.begun = true ∧ streamingP2.phase = .streaming ∧ holdT8.phase ≠ .streaming ∧
      State.reset.begun = false := by decide

theorem witness_RdstateAnswersState : drainedP1.begun = true ∧ State.reset.begun = false := by decide

theorem witness_PokeWritesOneByte : Memory.wf restP1.mem = true ∧ (0x1001 : Addr) ≠ 0x1000 := by decide

theorem witness_PokeMarksMutation :
    steps [.poke 0x3000 0x00] streamingP2 = true ∧ streamingP2.sourceBase = 0x3000 ∧ streamingP2.phase = .streaming ∧
      State.reset.begun = false ∧ holdT8.phase ≠ .streaming := by decide +kernel

theorem witness_TransmitCopiesTheFrontStore :
    restP1.begun = true ∧ restP1.phase ≠ .streaming ∧ Memory.wf restP1.mem = true ∧ 2 < 3 * restP1.cfg.n.toNat := by
  decide

theorem witness_MarksRaisedExactly :
    exec .consume streamingBare = .next (after [.consume] streamingBare) ∧
      streamingBare.consumed = streamingBare.produced := ⟨rfl, by decide⟩

theorem witness_FaultIsSticky :
    let s := State.withFetchWord { State.reset with fault := [.contract .poke] } 48 0x010000000000
    step s = .next (State.initialise { State.reset with fault := [.contract .poke] }) ∧ .contract .poke ∈ s.fault :=
  ⟨rfl, by decide⟩

theorem witness_EachElementHasItsWriters :
    exec .tick streamingB = .next streamingB.refill ∧ streamingB.refill.phase ≠ streamingB.phase ∧
      streamingB.refill.ring ≠ streamingB.ring := ⟨rfl, by decide +kernel⟩

theorem witness_StateMovesForward :
    (streamingB.begun = true ∧ exec .tick streamingB = .next streamingB.refill ∧
      streamingB.refill.phase ≠ streamingB.phase) ∧
      exec .complete drainedP1 = .next drainedP1.completeWork ∧ drainedP1.CycleInv ∧ drainedP1.underrun = false :=
  ⟨⟨rfl, rfl, by decide +kernel⟩, rfl, drainedP1_inv, rfl⟩

theorem witness_CycleBaseStays :
    (restP2.begun = true ∧ restP2.cfg.n ≠ 0 ∧ restP2.phase = .idle ∧ steps [.start 0x3000] restP2 = true ∧
      (after [.start 0x3000] restP2).phase = .streaming) ∧
      streamingBare.CycleInv ∧ exec .tick streamingBare = .next streamingBare.refill ∧
      streamingBare.refill.phase = .streaming :=
  ⟨by decide +kernel, streamingBare_inv, rfl, by decide +kernel⟩

theorem witness_LedlessBlockStaysIdle :
    let s := idle noLeds
    s.begun = true ∧ s.cfg.n = 0 ∧ s.phase = .idle ∧ s.engEn = false ∧ s.refillEn = false ∧ s.donePend = false ∧
      steps [.start 0x1000, .busy] s = true := by decide +kernel

theorem witness_StateFormIsKept :
    step (restP1.withFetchWord 48 0x0500001000A5) = .next restP1 ∧ Memory.wf restP1.mem = true ∧ restP1.fault.Nodup :=
  ⟨rfl, by decide, by decide⟩

theorem witness_CycleInvariantIsKept :
    step (streamingB.withFetchWord 48 0x100000000000) = .next streamingB.refill ∧ streamingB.begun = true ∧
      streamingB.CycleInv := ⟨rfl, rfl, streamingB_inv⟩

theorem witness_ResetMeetsTheInvariant : { State.reset with wr := 5, donePend := true }.begun = false := by decide

theorem witness_RefillLeavesRingAhead :
    (streamingBare.begun = true ∧ streamingBare.CycleInv ∧ streamingBare.underrun = false ∧
      exec .tick streamingBare = .next streamingBare.refill ∧ streamingBare.refill.phase = .streaming) ∧
      (streamingB.CycleInv ∧ exec .tick streamingB = .next streamingB.refill ∧
        streamingB.refill.phase = .resettingHold) :=
  ⟨⟨rfl, streamingBare_inv, rfl, rfl, by decide +kernel⟩, streamingB_inv, rfl, by decide +kernel⟩

theorem witness_PacedRunNeverUnderruns :
    restP1.begun = true ∧ restP1.CycleInv ∧ restP1.underrun = false ∧ restP1.phase = .idle ∧
      paced 120 0 restP1 [.start 0x1000, .consume] = true ∧ steps [.start 0x1000, .consume] restP1 = true :=
  ⟨rfl, by constructor <;> simp [restP1, idle, State.reset, State.powerOn, Config.zeroCode], rfl, rfl,
    by decide +kernel, by decide +kernel⟩

theorem witness_CycleEndsWhenEventsOccur :
    (drainedP1.begun = true ∧ drainedP1.CycleInv ∧ drainedP1.phase ≠ .idle ∧ drainedP1.engRem = 0) ∧
      (streamingB.begun = true ∧ streamingB.CycleInv ∧ streamingB.phase ≠ .idle) :=
  ⟨⟨rfl, drainedP1_inv, by decide, rfl⟩, rfl, streamingB_inv, by decide⟩

theorem witness_FrameIsMsbFirst :
    23 < 24 * restP1.cfg.n.toNat ∧ 24 * restP1.cfg.n.toNat ≤ 24 ∧ 63 < 24 * restP1.cfg.n.toNat + 40 := by decide

/-- P1: with fewer CONSUMEs no COMPLETE occurs, so the run has all 64. -/
theorem witness_CycleEmitsFrame :
    restP1.begun = true ∧ restP1.CycleInv ∧ Memory.wf restP1.mem = true ∧ restP1.phase = .idle ∧ restP1.cfg.n ≠ 0 ∧
      (0x1000 : Addr).toNat + 3 * restP1.cfg.n.toNat ≤ 2 ^ 32 ∧
      exec (.start 0x1000) restP1 = .next (restP1.startCycle 0x1000) ∧
      Instr.complete ∉ List.replicate 64 Instr.consume ∧
      steps (List.replicate 64 .consume ++ [.complete]) (restP1.startCycle 0x1000) = true ∧
      (after (List.replicate 64 .consume ++ [.complete]) (restP1.startCycle 0x1000)).fault = [] :=
  ⟨rfl, by constructor <;> simp [restP1, idle, State.reset, State.powerOn, Config.zeroCode], by decide, rfl, by decide,
    by decide, rfl, by decide, by decide +kernel, by decide +kernel⟩

theorem witness_ConfigurationAdmission :
    ∃ c, RawConfig.configure ⟨178956968, 0x26, 0x13, 0x3C, .fast⟩ = .ok c := ⟨_, rfl⟩

theorem witness_SlotPulseFillsThePeriod : (0x003B : Code).toNat < oneLed.period.toNat := by decide

end Sys2Proof.Tests
end

section
/-! The elements each operation writes (R30) and what follows from it for the obligations of 10_state.md. -/

namespace Sys2Proof.Machine

/-! ## The writers of each element -/

/-- `s` with the elements that the summary table of 10_state.md lets operation `i` write taken from `t`, and with the
model's own `result`, `freeCount` and `outstanding` (log 4, 9, 10). -/
def State.takeWritten (s : State) (i : Instr) (t : State) : State :=
  match i with
  | .begin =>
    { s with
      phase := t.phase, wr := t.wr, rd := t.rd, srcPtr := t.srcPtr, remBytes := t.remBytes, remReset := t.remReset,
      engRem := t.engRem, cmp := t.cmp, begun := t.begun, engEn := t.engEn, refillEn := t.refillEn,
      donePend := t.donePend, produced := t.produced, consumed := t.consumed, out := t.out, fault := t.fault }
  | .start _ =>
    { s with
      phase := t.phase, wr := t.wr, rd := t.rd, srcPtr := t.srcPtr, remBytes := t.remBytes, remReset := t.remReset,
      engRem := t.engRem, engEn := t.engEn, refillEn := t.refillEn, ring := t.ring, produced := t.produced,
      consumed := t.consumed, fault := t.fault, outstanding := t.outstanding }
  | .busy | .rdstate => { s with result := t.result, freeCount := t.freeCount, fault := t.fault }
  | .poke _ _ => { s with mem := t.mem, fault := t.fault }
  | .tick =>
    { s with
      phase := t.phase, wr := t.wr, srcPtr := t.srcPtr, remBytes := t.remBytes, remReset := t.remReset,
      refillEn := t.refillEn, ring := t.ring, produced := t.produced }
  | .consume =>
    { s with
      rd := t.rd, engRem := t.engRem, cmp := t.cmp, donePend := t.donePend, consumed := t.consumed, out := t.out,
      fault := t.fault }
  | .complete => { s with phase := t.phase, engEn := t.engEn, donePend := t.donePend }

/-- The end of a CONSUME writes DONE_PEND only (R103). -/
theorem State.checkDone_frame (s : State) : s.checkDone = { s with donePend := s.checkDone.donePend } := by
  unfold State.checkDone
  split <;> rfl

/-- The start sequence leaves what START does not write (R119). -/
theorem State.startCycle_frame (s : State) (src : Addr) :
    s.startCycle src = s.takeWritten (.start src) (s.startCycle src) := by
  rw [State.startCycle, State.refill_frame]
  rfl

/-- An operation writes no element but its own (R30). -/
theorem Stepped.eq_takeWritten {i : Instr} {s t : State} (h : Stepped s i t) : t = s.takeWritten i t := by
  cases h
  case startRuns => exact s.startCycle_frame _
  case tickRefills => exact s.refill_frame
  case consumeUnderruns | consumeMoves => rw [State.checkDone_frame]; rfl
  all_goals rfl

/-- Settles O35: the writers are read off the frame of each operation. -/
theorem eachElementHasItsWriters : Obligations.EachElementHasItsWriters := by
  intro i s t h
  have frame := (exec_stepped h).eq_takeWritten
  cases i
  all_goals
    rw [frame]
    simp [State.takeWritten]

/-! ## FAULT -/

@[simp] theorem mem_addMark {marks : List FaultMark} {m m' : FaultMark} :
    m' ∈ addMark marks m ↔ m' ∈ marks ∨ m' = m := by
  unfold addMark
  split
  · constructor
    · exact .inl
    · rintro (h | rfl) <;> assumption
  · simp

/-- An operation leaves FAULT as it is or adds one mark (R136). -/
theorem Stepped.fault_eq {i : Instr} {s t : State} (h : Stepped s i t) :
    t.fault = s.fault ∨ ∃ m, t.fault = addMark s.fault m := by
  cases h
  case beginAgain | startEarly | startWraps | busyEarly | rdstateEarly | pokeEarly | pokeMutates =>
    exact .inr ⟨_, rfl⟩
  case consumeUnderruns => rw [State.checkDone_frame]; exact .inr ⟨_, rfl⟩
  case consumeMoves => rw [State.checkDone_frame]; exact .inl rfl
  case startRuns => exact .inl (by simp [State.startCycle, State.armProducer])
  case tickRefills => exact .inl s.refill_fault
  all_goals exact .inl rfl

/-- Settles O34: a step runs an operation, and an operation only adds marks. -/
theorem faultIsSticky : Obligations.FaultIsSticky := by
  refine ⟨rfl, fun s t m h hm => ?_, fun marks m m' => mem_addMark⟩
  obtain ⟨_, rest, i, _, _, _, hexec⟩ := step_next h
  have hfault : t.fault = s.fault ∨ ∃ m', t.fault = addMark s.fault m' := (exec_stepped hexec).fault_eq
  rcases hfault with e | ⟨m', e⟩
  · rwa [e]
  · rw [e]
    exact mem_addMark.mpr (.inl hm)

/-! ## STATE -/

/-- A TICK moves STATE forward or leaves it (R20, R89). -/
theorem Stepped.tick_phase_cases {s t : State} (h : Stepped s .tick t) :
    t.phase = s.phase ∨ (s.phase = .streaming ∧ (t.phase = .resettingHold ∨ t.phase = .draining)) ∨
      (s.phase = .resettingHold ∧ t.phase = .draining) := by
  cases h with
  | tickDisarms => exact .inl rfl
  | tickRefills => exact s.refill_phase_cases

/-- A START that changes STATE finds Idle (R117). -/
theorem Stepped.start_phase_changed {src : Addr} {s t : State} (h : Stepped s (.start src) t)
    (hne : t.phase ≠ s.phase) : s.phase = .idle := by
  cases h with
  | startRuns _ _ _ _ hidle => exact hidle
  | _ => exact absurd rfl hne

/-- A block that has been begun keeps its state in BEGIN, but for the mark (R116). -/
theorem Stepped.begin_again {s t : State} (h : Stepped s .begin t) (hb : s.begun = true) :
    t = s.raise (.contract .begin) := by
  cases h with
  | beginAgain => rfl
  | beginFirst hnot => simp [hb] at hnot

/-- The slots of a cycle are the codes of its bytes and the reset hold (R110). -/
theorem totalSlots_eq (c : Config) : c.totalSlots = 8 * c.totalBytes + Config.resetBits := by
  simp only [Config.totalSlots, Config.totalBytes, Config.bitsPerLed, Config.bytesPerLed]
  omega

/-- When the Engine is done without UNDERRUN the Producer has written every slot, so STATE is Draining (R106). -/
theorem State.CycleInv.draining_of_donePend {s : State} (inv : s.CycleInv) (hu : s.underrun = false)
    (hd : s.donePend = true) : s.phase = .draining := by
  have hwritten : s.produced = s.cfg.totalSlots := by
    obtain ⟨hen, hrem⟩ := inv.doneStopped hd
    have hcount := inv.engineCount hen
    have hahead := (inv.ahead hu).1
    have hbound := inv.bounded.2
    have hzero : s.engRem.toNat = 0 := by rw [hrem]; rfl
    omega
  rw [totalSlots_eq] at hwritten
  cases hp : s.phase with
  | idle =>
    have := (inv.idleAtRest hp).2
    simp [hd] at this
  | streaming =>
    obtain ⟨hpos, hle, hprod⟩ := inv.streamingCount hp
    omega
  | resettingHold =>
    obtain ⟨_, hpos, hle, hprod⟩ := inv.holdCount hp
    omega
  | draining => rfl

/-- Settles O36: only the writers of STATE are left to look at, and a second BEGIN is none of them. -/
theorem stateMovesForward : Obligations.StateMovesForward := by
  intro i s t hb h hne
  have run := exec_stepped h
  rcases (eachElementHasItsWriters i s t h).1 hne with rfl | rfl | rfl | ⟨src, rfl⟩
  · rw [run.begin_again hb] at hne
    exact absurd rfl hne
  · refine ⟨?_, nofun⟩
    rcases run.tick_phase_cases with same | ⟨hs, ht⟩ | ⟨hs, ht⟩
    · exact absurd same hne
    · exact .inr (.inl ⟨rfl, hs, ht⟩)
    · exact .inr (.inr (.inl ⟨rfl, hs, ht⟩))
  · cases run with
    | completes henabled =>
      simp only [State.completeEnabled, Bool.and_eq_true] at henabled
      exact ⟨.inr (.inr (.inr ⟨rfl, rfl⟩)), fun _ inv hu => inv.draining_of_donePend hu henabled.2⟩
  · exact ⟨.inl ⟨⟨src, rfl⟩, run.start_phase_changed hne⟩, nofun⟩

/-! ## The first byte of the running cycle -/

/-- The source bytes of a cycle can be counted in REM_BYTES (R5). -/
theorem totalBytes_lt (c : Config) : c.totalBytes < 2 ^ 32 := by
  have := totalSlots_lt c
  have := totalSlots_eq c
  omega

/-- A Refill run that stays in Streaming moves SRC_PTR and REM_BYTES together; SRC_PTR does not wrap while source bytes
are left in the source byte space (R14, R82). -/
theorem State.refill_sourceBase {s : State} (hp : s.phase = .streaming) (hpos : 1 ≤ s.remBytes.toNat)
    (hfit : s.srcPtr.toNat + s.remBytes.toNat ≤ 2 ^ 32) (hstay : s.refill.phase = .streaming) :
    s.refill.sourceBase = s.sourceBase := by
  have run := s.refill_stream_run hp hpos
  have hleft : s.bytesFor s.avail < s.remBytes.toNat := by
    have hle : s.bytesFor s.avail ≤ s.remBytes.toNat := min_le_left _ _
    have hne : s.bytesFor s.avail ≠ s.remBytes.toNat := fun e => by
      have hphase := run.phase
      rw [if_pos e, hstay] at hphase
      split at hphase <;> cases hphase
    omega
  have hptr : s.refill.srcPtr.toNat = s.srcPtr.toNat + s.bytesFor s.avail := by
    rw [run.srcPtr, BitVec.toNat_add, BitVec.toNat_ofNat]
    omega
  simp only [State.sourceBase, State.refill_cfg, hptr, run.remBytes]
  omega

/-- What the invariants say of the bytes left in Streaming: there is one, and they lie in the source byte space
(R171 items 5 and 11). -/
theorem State.CycleInv.bytesLeft {s : State} (inv : s.CycleInv) (hp : s.phase = .streaming) :
    1 ≤ s.remBytes.toNat ∧ s.srcPtr.toNat + s.remBytes.toNat ≤ 2 ^ 32 := by
  obtain ⟨hpos, _, _⟩ := inv.streamingCount hp
  have hregion := (inv.sourceRegion hp).2
  simp only [State.sourceBase] at hregion
  omega

/-- After the start sequence the first byte of the cycle is at the operand, if STATE is Streaming (R14, R119). -/
theorem State.startCycle_sourceBase {s : State} {src : Addr} (hn : s.cfg.n ≠ 0) (hw : s.sourceWraps src = false)
    (hstay : (s.startCycle src).phase = .streaming) : (s.startCycle src).sourceBase = src.toNat := by
  have hlt := totalBytes_lt s.cfg
  have hrem : (s.armProducer src).remBytes.toNat = s.cfg.totalBytes := Nat.mod_eq_of_lt hlt
  have hpos : 1 ≤ s.cfg.totalBytes := by
    have : s.cfg.n.toNat ≠ 0 := fun e => hn (BitVec.eq_of_toNat_eq e)
    simp only [Config.totalBytes, Config.bytesPerLed]
    omega
  have hfit : src.toNat + s.cfg.totalBytes ≤ 2 ^ 32 := by simpa [State.sourceWraps] using hw
  calc (s.startCycle src).sourceBase
    _ = (s.armProducer src).refill.sourceBase := rfl
    _ = (s.armProducer src).sourceBase := State.refill_sourceBase rfl (hrem ▸ hpos) (hrem ▸ hfit) hstay
    _ = src.toNat - ((s.cfg.totalBytes : Int) - (s.armProducer src).remBytes.toNat) := rfl
    _ = src.toNat := by rw [hrem, Int.sub_self, Int.sub_zero]

/-- No operation moves the first byte of the cycle while STATE stays Streaming (R14). -/
theorem Stepped.sourceBase_eq {i : Instr} {s t : State} (h : Stepped s i t) (hb : s.begun = true) (inv : s.CycleInv)
    (hs : s.phase = .streaming) (ht : t.phase = .streaming) : t.sourceBase = s.sourceBase := by
  cases h
  case beginFirst hnot => simp [hb] at hnot
  case startRuns hidle => simp [hs] at hidle
  case tickRefills =>
    obtain ⟨hpos, hfit⟩ := inv.bytesLeft hs
    exact State.refill_sourceBase hs hpos hfit ht
  case consumeUnderruns | consumeMoves => rw [State.checkDone_frame]; rfl
  all_goals rfl

/-- A START from Idle that leaves STATE Streaming runs the start sequence (R117 case 5). -/
theorem Stepped.start_ran {src : Addr} {s t : State} (h : Stepped s (.start src) t) (hidle : s.phase = .idle)
    (ht : t.phase = .streaming) : s.cfg.n ≠ 0 ∧ s.sourceWraps src = false ∧ t = s.startCycle src := by
  cases h with
  | startRuns _ _ hn hw _ => exact ⟨hn, hw, rfl⟩
  | _ => cases hidle.symm.trans ht

/-- Settles O37: the prefill of START and every later run keep SRC_PTR and REM_BYTES in step. -/
theorem cycleBaseStays : Obligations.CycleBaseStays := by
  constructor
  · intro src s t _ _ hidle h ht
    obtain ⟨hn, hw, rfl⟩ := (exec_stepped h).start_ran hidle ht
    exact State.startCycle_sourceBase hn hw ht
  · intro i s t hb inv h hs ht
    exact (exec_stepped h).sourceBase_eq hb inv hs ht

end Sys2Proof.Machine
end

section
/-! The forms of the source bytes and of FAULT (log 8, 16): what an operation can do to each keeps its form. -/

namespace Sys2Proof.Machine

/-- POKE writes its byte, and no other operation writes a source byte (R30, R123). -/
theorem Stepped.mem_eq {i : Instr} {s t : State} (h : Stepped s i t) :
    t.mem = s.mem ∨ ∃ addr data, t.mem = (s.writeByte addr data).mem := by
  have frame := congrArg State.mem h.eq_takeWritten
  cases i with
  | poke addr data => exact .inr ⟨addr, data, by cases h <;> rfl⟩
  | _ => exact .inl frame

theorem Stepped.mem_wf {i : Instr} {s t : State} (h : Stepped s i t) (hwf : Memory.wf s.mem = true) :
    Memory.wf t.mem = true := by
  rcases h.mem_eq with e | ⟨addr, data, e⟩
  · rwa [e]
  · rw [e]
    exact State.writeByte_wf hwf

/-- A mark already in the set is not added again (R29). -/
theorem addMark_nodup {marks : List FaultMark} (m : FaultMark) (h : marks.Nodup) : (addMark marks m).Nodup := by
  unfold addMark
  split
  · exact h
  · next hm => simpa using h.concat hm

theorem Stepped.fault_nodup {i : Instr} {s t : State} (h : Stepped s i t) (hnodup : s.fault.Nodup) :
    t.fault.Nodup := by
  rcases h.fault_eq with e | ⟨m, e⟩
  · rwa [e]
  · rw [e]
    exact addMark_nodup m hnodup

/-- Settles O39: a step runs an operation on the state without its word, and each operation keeps both forms. -/
theorem stateFormIsKept : Obligations.StateFormIsKept := by
  intro s t h hwf hnodup
  obtain ⟨_, rest, i, _, _, _, hexec⟩ := step_next h
  have run : Stepped { s with schedule := rest } i t := exec_stepped hexec
  exact ⟨run.mem_wf hwf, run.fault_nodup hnodup⟩

end Sys2Proof.Machine
end

section
/-! The opcode map and the decoder (R67 to R70): the legal words are the words of the operations, and the rows of the map
select just these. -/

namespace Sys2Proof

/-! ## Decoding the fields of an operation -/

@[simp] theorem operationOf_fieldsOfInstr (i : Instr) : operationOf (fieldsOfInstr i) = some i := by
  cases i <;> rfl

@[simp] theorem decodeFields_fieldsOfInstr (i : Instr) : decodeFields (fieldsOfInstr i) = .ok i := by
  have legal : (fieldsOfInstr i).illegal = none := i.wellFormed
  simp [decodeFields, legal]

/-- Legal fields have an assigned code, and zero in each operand the code does not use (R70). -/
theorem OpFields.wellFormed_iff {f : OpFields} :
    f.WellFormed ↔ OpFields.assigned f.opc = true ∧ (OpFields.usesA f.opc = false → f.a = 0) ∧
      (OpFields.usesB f.opc = false → f.b = 0) := by
  unfold OpFields.WellFormed OpFields.illegal
  split_ifs <;> simp_all

/-- Legal fields are those of the operation they stand for (R68, R70). -/
theorem OpFields.WellFormed.eq_fieldsOfInstr {f : OpFields} {i : Instr} (h : f.WellFormed)
    (hop : operationOf f = some i) : f = fieldsOfInstr i := by
  obtain ⟨_, hA, hB⟩ := OpFields.wellFormed_iff.mp h
  obtain ⟨opc, a, b⟩ := f
  unfold operationOf at hop
  dsimp only at hA hB hop
  split_ifs at hop
  all_goals
    subst opc
    cases hop
    simp_all [fieldsOfInstr, OpFields.usesA, OpFields.usesB]

theorem decodeFields_eq_ok_iff {f : OpFields} {i : Instr} : decodeFields f = .ok i ↔ f = fieldsOfInstr i := by
  constructor
  · intro h
    unfold decodeFields at h
    split at h
    · cases h
    · next legal =>
      split at h
      · next hop =>
        cases h
        exact OpFields.WellFormed.eq_fieldsOfInstr legal hop
      · cases h
  · rintro rfl
    exact decodeFields_fieldsOfInstr i

/-- A word is an operation's if its fields are. -/
theorem eq_encode_of_fieldsOf {w : OpWord} {i : Instr} (h : fieldsOf w = fieldsOfInstr i) : w = encode i := by
  rw [encode, ← h, wordOf_fieldsOf]

/-- The words that decode to an operation: its own, and no other (R67, R68). -/
theorem decode_eq_ok_iff {w : OpWord} {i : Instr} : decode w = .ok i ↔ w = encode i := by
  rw [decode, decodeFields_eq_ok_iff]
  constructor
  · exact eq_encode_of_fieldsOf
  · rintro rfl
    exact fieldsOf_wordOf _

/-- Settles O2: the fields of the word are the fields encoded, and these are legal. -/
theorem decodeOfEncode : Obligations.DecodeOfEncode := fun _ => decode_eq_ok_iff.mpr rfl

/-- Settles O3: legal fields are those of the operation they stand for. -/
theorem encodeOfDecode : Obligations.EncodeOfDecode := fun _ _ h => (decode_eq_ok_iff.mp h).symm

/-! ## The rows of the opcode map -/

/-- A mask acts on each field of a word (R67, R68). -/
theorem fieldsOf_and (w m : OpWord) :
    fieldsOf (w &&& m) =
      ⟨(fieldsOf w).opc &&& (fieldsOf m).opc, (fieldsOf w).a &&& (fieldsOf m).a, (fieldsOf w).b &&& (fieldsOf m).b⟩ := by
  simp [fieldsOf, BitVec.extractLsb'_and]

/-- A row with no operand selects its pattern only. -/
theorem eq_of_and_fullMask {w p : OpWord} (h : w &&& 0xFFFFFFFFFFFF = p) : w = p := by
  have full : (0xFFFFFFFFFFFF : OpWord) = BitVec.allOnes 48 := by decide
  rwa [full, BitVec.and_allOnes] at h

/-- A row selects the words whose fields, under the mask's fields, are the pattern's (R67, R68). -/
theorem and_eq_iff_fields {w m p : OpWord} : w &&& m = p ↔
    (fieldsOf w).opc &&& (fieldsOf m).opc = (fieldsOf p).opc ∧ (fieldsOf w).a &&& (fieldsOf m).a = (fieldsOf p).a ∧
      (fieldsOf w).b &&& (fieldsOf m).b = (fieldsOf p).b := by
  have byFields : w &&& m = p ↔ fieldsOf (w &&& m) = fieldsOf p :=
    ⟨congrArg fieldsOf, fun h => by rw [← wordOf_fieldsOf (w &&& m), h, wordOf_fieldsOf]⟩
  rw [byFields, fieldsOf_and, OpFields.mk.injEq]

/-- A word of the START row is that of a START: operand A is free (R68). -/
theorem eq_encode_start {w : OpWord} (h : w &&& 0xFF00000000FF = 0x020000000000) :
    w = encode (.start (fieldsOf w).a) := by
  have hmask : fieldsOf 0xFF00000000FF = ⟨BitVec.allOnes 8, 0, BitVec.allOnes 8⟩ := by decide
  have hpattern : fieldsOf 0x020000000000 = ⟨0x02, 0, 0⟩ := by decide
  simp only [and_eq_iff_fields, hmask, hpattern, BitVec.and_allOnes] at h
  obtain ⟨hopc, _, hb⟩ := h
  exact eq_encode_of_fieldsOf (by rw [fieldsOfInstr, ← hopc, ← hb])

/-- A word of the POKE row is that of a POKE: both operands are free (R68). -/
theorem eq_encode_poke {w : OpWord} (h : w &&& 0xFF0000000000 = 0x050000000000) :
    w = encode (.poke (fieldsOf w).a (fieldsOf w).b) := by
  have hmask : fieldsOf 0xFF0000000000 = ⟨BitVec.allOnes 8, 0, 0⟩ := by decide
  have hpattern : fieldsOf 0x050000000000 = ⟨0x05, 0, 0⟩ := by decide
  simp only [and_eq_iff_fields, hmask, hpattern, BitVec.and_allOnes] at h
  obtain ⟨hopc, _⟩ := h
  exact eq_encode_of_fieldsOf (by rw [fieldsOfInstr, ← hopc])

/-- A row of the map selects only words of operations with its mnemonic (R68). -/
theorem exists_encode_of_row {w : OpWord} {r : OpRow} (hr : r ∈ opcodeMap) (h : w &&& r.mask = r.pattern) :
    ∃ i, w = encode i ∧ i.mnemonic = r.mnemonic := by
  simp only [opcodeMap, List.mem_cons, List.not_mem_nil, or_false] at hr
  rcases hr with rfl | rfl | rfl | rfl | rfl | rfl | rfl | rfl
  · exact ⟨.begin, eq_of_and_fullMask h, rfl⟩
  · exact ⟨_, eq_encode_start h, rfl⟩
  · exact ⟨.busy, eq_of_and_fullMask h, rfl⟩
  · exact ⟨.rdstate, eq_of_and_fullMask h, rfl⟩
  · exact ⟨_, eq_encode_poke h, rfl⟩
  · exact ⟨.tick, eq_of_and_fullMask h, rfl⟩
  · exact ⟨.consume, eq_of_and_fullMask h, rfl⟩
  · exact ⟨.complete, eq_of_and_fullMask h, rfl⟩

/-- The word of every operation selects the row of its mnemonic. -/
theorem opcodeRow_statement (i : Instr) : Laws.OpcodeRow.Statement i := by
  cases i with
  | begin => exact Laws.OpcodeRow.begin
  | start src => exact Laws.OpcodeRow.start src
  | busy => exact Laws.OpcodeRow.busy
  | rdstate => exact Laws.OpcodeRow.rdstate
  | poke addr data => exact Laws.OpcodeRow.poke addr data
  | tick => exact Laws.OpcodeRow.tick
  | consume => exact Laws.OpcodeRow.consume
  | complete => exact Laws.OpcodeRow.complete

/-- No two rows have one mnemonic. -/
theorem opcodeMap_mnemonic_injective :
    ∀ r ∈ opcodeMap, ∀ r' ∈ opcodeMap, r'.mnemonic = r.mnemonic → r' = r := by decide

/-- R70, the first half: a word is legal iff a row selects it. -/
theorem exists_decode_iff_exists_row (w : OpWord) :
    (∃ i, decode w = .ok i) ↔ ∃ r ∈ opcodeMap, w &&& r.mask = r.pattern := by
  constructor
  · rintro ⟨i, h⟩
    obtain ⟨r, hr, _, hsel⟩ := opcodeRow_statement i
    rw [OpRow.selects, beq_iff_eq, ← decode_eq_ok_iff.mp h] at hsel
    exact ⟨r, hr, hsel⟩
  · rintro ⟨r, hr, h⟩
    obtain ⟨i, hw, _⟩ := exists_encode_of_row hr h
    exact ⟨i, decode_eq_ok_iff.mpr hw⟩

/-- Settles O5: a second row would name the same operation, and no two rows have one mnemonic. -/
theorem rowsNameTheOperation : Obligations.RowsNameTheOperation := by
  intro w r hr h
  obtain ⟨i, hw, hname⟩ := exists_encode_of_row hr h
  have hi : decode w = .ok i := decode_eq_ok_iff.mpr hw
  refine ⟨fun r' hr' h' => ?_, i, hi, hname⟩
  obtain ⟨i', hw', hname'⟩ := exists_encode_of_row hr' h'
  have same : i' = i := Except.ok.inj ((decode_eq_ok_iff.mpr hw').symm.trans hi)
  exact opcodeMap_mnemonic_injective r hr r' hr' (by rw [← hname', ← hname, same])

/-- Settles O1: the legal words are those of their operations, and each refused word fails its check of R70. -/
theorem specWordsDecode : Obligations.SpecWordsDecode := by
  unfold Obligations.SpecWordsDecode
  decide

/-- The 48 bits of a word, as the host numbers them, are the word (R67; log 11). -/
@[simp] theorem wordOfBits_toNat (w : OpWord) : wordOfBits 48 w.toNat = w := by
  rw [wordOfBits, Nat.mod_eq_of_lt w.isLt, BitVec.ofNat_toNat, BitVec.setWidth_eq]

end Sys2Proof
end

section
/-! A step by what the next word decodes to (R70, R74), and when the events occur (R87, R101, R106). -/

namespace Sys2Proof.Machine

/-! ## A step, by the next word -/

theorem step_of_schedule_nil {s : State} (h : s.schedule = []) : step s = .fault .scheduleEnd := by
  simp [step, State.nextWord, h]

theorem step_of_decode_error {s : State} {w : OpWord} {rest : List OpWord} {e : Illegal} (h : s.schedule = w :: rest)
    (hd : decode w = .error e) : step s = .refused (.illegal e) := by
  simp [step, State.nextWord, h, hd]

theorem step_of_decode_ok {s : State} {w : OpWord} {rest : List OpWord} {i : Instr} (h : s.schedule = w :: rest)
    (hd : decode w = .ok i) :
    step s = if s.hostBlocked i then .refused .hostBlocked else exec i { s with schedule := rest } := by
  simp only [step, State.nextWord, h, hd]
  rfl

/-- A step from a state with the word of an operation put first. -/
theorem step_withFetchWord_encode (s : State) (i : Instr) :
    step (s.withFetchWord 48 (encode i).toNat) = if s.hostBlocked i then .refused .hostBlocked else exec i s :=
  step_of_decode_ok (rest := s.schedule) (by simp [State.withFetchWord]) (decodeOfEncode i)

/-- Settles O4: the rows select the words of the operations, and any other word fails to decode. -/
theorem legalIffRowMatches : Obligations.LegalIffRowMatches := by
  intro w
  refine ⟨exists_decode_iff_exists_row w, fun hno s rest hs => ?_⟩
  cases hd : decode w with
  | error e => exact ⟨e, step_of_decode_error hs hd⟩
  | ok i => exact absurd ((exists_decode_iff_exists_row w).mp ⟨i, hd⟩) hno

/-- Settles O6: the step rules above, where the Host is not blocked. -/
theorem stepRunsDecodedOperation : Obligations.StepRunsDecodedOperation := by
  refine ⟨fun s w rest i hs hd hfree => ?_, fun s i hfree => ?_, fun s hs => step_of_schedule_nil hs⟩
  · simp [step_of_decode_ok hs hd, hfree]
  · simp [step_withFetchWord_encode, hfree]

/-! ## When the events occur -/

theorem State.tickEnabled_iff {s : State} : s.tickEnabled = true ↔ s.begun = true ∧ s.refillEn = true := by
  simp [State.tickEnabled]

theorem State.consumeEnabled_iff {s : State} :
    s.consumeEnabled = true ↔ s.begun = true ∧ s.engEn = true ∧ 0 < s.engRem.toNat := by
  have hpos : s.engRem ≠ 0 ↔ 0 < s.engRem.toNat := by bv_omega
  simp [State.consumeEnabled, and_assoc, ← hpos]

theorem State.completeEnabled_iff {s : State} : s.completeEnabled = true ↔ s.begun = true ∧ s.donePend = true := by
  simp [State.completeEnabled]

/-- An outcome guarded by a condition: a next state if it holds, the refusal if not. -/
theorem guarded_outcome {o : Host.Outcome State Fault Refusal} {enabled : Bool} {t : State} {r : Refusal} {P : Prop}
    (h : o = if enabled then .next t else .refused r) (hP : enabled = true ↔ P) :
    ((∃ t, o = .next t) ↔ P) ∧ (¬ P → o = .refused r) := by
  subst h
  rw [← hP]
  cases enabled <;> simp

theorem exists_exec_begin (s : State) : ∃ t, exec .begin s = .next t := by
  simp only [exec, execBegin]
  split <;> exact ⟨_, rfl⟩

theorem exists_exec_busy (s : State) : ∃ t, exec .busy s = .next t := by
  simp only [exec, execBusy]
  split <;> exact ⟨_, rfl⟩

theorem exists_exec_rdstate (s : State) : ∃ t, exec .rdstate s = .next t := by
  simp only [exec, execRdstate]
  split <;> exact ⟨_, rfl⟩

/-- Settles O8: each event is guarded by its enabling condition, and no Host operation but START can be held. -/
theorem eventsStepExactlyWhenEnabled : Obligations.EventsStepExactlyWhenEnabled := by
  intro s
  obtain ⟨tickIff, noTick⟩ := guarded_outcome (o := exec .tick s) rfl State.tickEnabled_iff
  obtain ⟨consumeIff, noConsume⟩ := guarded_outcome (o := exec .consume s) rfl State.consumeEnabled_iff
  obtain ⟨completeIff, noComplete⟩ := guarded_outcome (o := exec .complete s) rfl State.completeEnabled_iff
  exact ⟨tickIff, consumeIff, completeIff, noTick, noConsume, noComplete, exists_exec_begin s, exists_exec_busy s,
    exists_exec_rdstate s, fun _ _ => ⟨_, rfl⟩⟩

end Sys2Proof.Machine
end

section
/-! The frame of a cycle, code by code (R63, R64). -/

namespace Sys2Proof.Machine

/-- The data codes of `FRAME(src, N)`, the reset hold left out (R64). -/
def State.frameData (s : State) (src : Addr) : List Code :=
  (List.range s.cfg.totalBytes).flatMap fun k => codesOfByte s.cfg (Memory.read s.mem (src.toNat + k))

theorem State.frame_eq (s : State) (src : Addr) :
    s.frame src = s.frameData src ++ List.replicate Config.resetBits Config.zeroCode := rfl

theorem eight_mul_totalBytes (c : Config) : 8 * c.totalBytes = 24 * c.n.toNat := by
  simp only [Config.totalBytes, Config.bytesPerLed]
  omega

@[simp] theorem State.length_frameData (s : State) (src : Addr) :
    (s.frameData src).length = 24 * s.cfg.n.toNat := by
  rw [← eight_mul_totalBytes]
  simp [State.frameData, List.length_flatMap, codesOfByte, Nat.mul_comm]

/-- Code `j` of the data: bit `7 − j mod 8` of byte `j / 8` (R63). -/
theorem State.getElem?_frameData (s : State) (src : Addr) {j : Nat} (hj : j < 24 * s.cfg.n.toNat) :
    (s.frameData src)[j]? =
      some (codeOfBit s.cfg ((Memory.read s.mem (src.toNat + j / 8)).getLsbD (7 - j % 8))) := by
  have hbit : j % 8 < 8 := Nat.mod_lt _ (by decide)
  rw [State.frameData, getElem?_flatMap_range (fun _ => rfl) _ _ (eight_mul_totalBytes s.cfg ▸ hj),
    List.getElem?_eq_getElem (by simpa [codesOfByte] using hbit), getElem_codesOfByte _ _ _ hbit]

/-- Settles O45: the data codes stand in front of the reset hold. -/
theorem frameIsMsbFirst : Obligations.FrameIsMsbFirst := by
  intro s src
  rw [State.frame_eq]
  refine ⟨by simp [Config.resetBits], fun j hj => ?_, fun j hlo hhi => ?_⟩
  · rw [List.getElem?_append_left (by simpa using hj), State.getElem?_frameData s src hj, codeOfBit]
  · rw [List.getElem?_append_right (by simpa using hlo), State.length_frameData, List.getElem?_replicate,
      if_pos (by simp only [Config.resetBits]; omega)]
    rfl

end Sys2Proof.Machine
end

section
/-! The copy of TRANSMIT2 (R72, R125): its POKEs, one after the other, write the front bytes to the back store. -/

namespace Sys2Proof.Machine

/-- A run of a list is a run of its first part and of the rest from there. -/
theorem execAll_append {ops rest : List Instr} {s t : State} (h : execAll ops s = .next t) :
    execAll (ops ++ rest) s = execAll rest t := by
  induction ops generalizing s with
  | nil => cases h; rfl
  | cons i ops ih =>
    simp only [List.cons_append, execAll] at h ⊢
    cases hi : exec i s with
    | next u =>
      simp only [hi] at h
      exact ih h
    | fault r => simp [hi] at h
    | refused r => simp [hi] at h

/-- Outside Streaming a POKE of a begun block writes its byte and raises no mark (R123, R125). -/
theorem exec_poke_of_not_streaming {s : State} (hb : s.begun = true) (hp : s.phase ≠ .streaming) (addr : Addr)
    (data : Byte) : exec (.poke addr data) s = .next (s.writeByte addr data) :=
  exec_of_stepped (.pokeWrites addr data hb fun h => hp h.1)

/-- The POKE of byte `k` in the copy of TRANSMIT2 (R72). -/
def State.copyPoke (s : State) (front back : Addr) (k : Nat) : Instr :=
  .poke (back + BitVec.ofNat 32 k) (s.readByte (front + BitVec.ofNat 32 k))

theorem State.copyPokes_eq (s : State) (front back : Addr) :
    s.copyPokes front back = (List.range s.cfg.totalBytes).map (s.copyPoke front back) := rfl

/-- The state with the first `n` bytes from `front` up copied to `back`; the bytes are those of `s`. -/
def State.copyBytes (s : State) (front back : Addr) : Nat → State
  | 0 => s
  | n + 1 => (s.copyBytes front back n).writeByte (back + BitVec.ofNat 32 n) (s.readByte (front + BitVec.ofNat 32 n))

section copyBytes

variable (s : State) (front back : Addr)

theorem State.copyBytes_frame (n : Nat) :
    s.copyBytes front back n = { s with mem := (s.copyBytes front back n).mem } := by
  induction n with
  | zero => rfl
  | succ n ih =>
    rw [State.copyBytes, ih]
    rfl

theorem State.copyBytes_begun (n : Nat) : (s.copyBytes front back n).begun = s.begun := by
  rw [State.copyBytes_frame]

theorem State.copyBytes_phase (n : Nat) : (s.copyBytes front back n).phase = s.phase := by
  rw [State.copyBytes_frame]

variable {s}

theorem State.copyBytes_wf (hwf : Memory.wf s.mem = true) (n : Nat) :
    Memory.wf (s.copyBytes front back n).mem = true := by
  induction n with
  | zero => exact hwf
  | succ n ih => exact State.writeByte_wf ih

/-- Up to `2^32` bytes the addresses of the back store differ, so no byte is overwritten. -/
theorem State.readByte_copyBytes (hwf : Memory.wf s.mem = true) {n k : Nat} (hn : n ≤ 2 ^ 32) (hk : k < n) :
    (s.copyBytes front back n).readByte (back + BitVec.ofNat 32 k) = s.readByte (front + BitVec.ofNat 32 k) := by
  induction n with
  | zero => omega
  | succ n ih =>
    have hwf' := State.copyBytes_wf front back hwf n
    by_cases hlast : k = n
    · subst hlast
      exact State.readByte_writeByte_same hwf'
    · have hne : back + BitVec.ofNat 32 k ≠ back + BitVec.ofNat 32 n := by bv_omega
      calc (s.copyBytes front back (n + 1)).readByte (back + BitVec.ofNat 32 k)
        _ = (s.copyBytes front back n).readByte (back + BitVec.ofNat 32 k) :=
          State.readByte_writeByte_other hwf' hne
        _ = s.readByte (front + BitVec.ofNat 32 k) := ih (by omega) (by omega)

theorem execAll_copyPoke (hb : s.begun = true) (hp : s.phase ≠ .streaming) (n : Nat) :
    execAll ((List.range n).map (s.copyPoke front back)) s = .next (s.copyBytes front back n) := by
  induction n with
  | zero => rfl
  | succ n ih =>
    have hb' : (s.copyBytes front back n).begun = true := by rw [State.copyBytes_begun, hb]
    have hp' : (s.copyBytes front back n).phase ≠ .streaming := by rwa [State.copyBytes_phase]
    rw [List.range_succ, List.map_append, execAll_append ih]
    simp [execAll, State.copyPoke, exec_poke_of_not_streaming hb' hp', State.copyBytes]

end copyBytes

/-- Settles O32: by induction on the bytes copied, each POKE writes its byte and the back addresses differ. -/
theorem transmitCopiesTheFrontStore : Obligations.TransmitCopiesTheFrontStore := by
  intro s front back hb hp hwf
  refine ⟨s.copyBytes front back s.cfg.totalBytes, ?_, s.copyBytes_frame front back _, fun k hk => ?_⟩
  · rw [State.copyPokes_eq, execAll_copyPoke front back hb hp]
  · exact State.readByte_copyBytes front back hwf (totalBytes_lt s.cfg).le hk

end Sys2Proof.Machine
end

section
/-! The Producer (40_ring_producer.md): what a TICK does, by what its one Refill run writes (R80 to R93). -/

namespace Sys2Proof.Machine

/-! ## The free space -/

theorem State.avail_lt (s : State) : s.avail < 128 := (s.rd - s.wr - 1).isLt

theorem State.avail_eq_emod (s : State) : (s.avail : Int) = ((s.rd.toNat : Int) - s.wr.toNat - 1) % 128 := by
  have hrd := s.rd.isLt
  have hwr := s.wr.isLt
  have hone : (1 : Cursor).toNat = 1 := rfl
  simp only [State.avail, BitVec.toNat_sub, hone]
  omega

theorem State.avail_of_empty {s : State} (h : s.wr = s.rd) : s.avail = 127 := by
  simp [State.avail, h]

theorem State.avail_of_full {s : State} (h : s.wr = s.rd - 1) : s.avail = 0 := by
  simp only [State.avail, h]
  bv_omega

/-- Settles O14: AVAIL is the 7-bit difference, read in the integers. -/
theorem availIsFreeSpace : Obligations.AvailIsFreeSpace := fun s =>
  ⟨s.avail_eq_emod, State.avail_of_empty, State.avail_of_full⟩

/-! ## A TICK, by STATE -/

theorem exec_tick_of_rest {s : State} (hb : s.begun = true) (he : s.refillEn = true)
    (hp : s.phase = .idle ∨ s.phase = .draining) : exec .tick s = .next { s with refillEn := false } :=
  exec_of_stepped (.tickDisarms (State.tickEnabled_iff.mpr ⟨hb, he⟩) hp)

theorem exec_tick_of_producing {s : State} (hb : s.begun = true) (he : s.refillEn = true)
    (hp : s.phase = .streaming ∨ s.phase = .resettingHold) : exec .tick s = .next s.refill :=
  exec_of_stepped (.tickRefills (State.tickEnabled_iff.mpr ⟨hb, he⟩) hp)

theorem exec_tick_of_disarmed {s : State} (he : s.refillEn = false) : exec .tick s = .refused (.notEnabled "TICK") := by
  obtain ⟨-, -, -, refused_of_not_enabled, -⟩ := eventsStepExactlyWhenEnabled s
  exact refused_of_not_enabled (by simp [he])

theorem producing_of_not_rest {p : Phase} (h : ¬ (p = .idle ∨ p = .draining)) :
    p = .streaming ∨ p = .resettingHold := by
  cases p <;> simp at h ⊢

/-- Settles O15: STATE decides between the disarm and the run. -/
theorem tickRunsOneRefill : Obligations.TickRunsOneRefill := by
  intro s hb he
  split
  case isTrue hrest => exact exec_tick_of_rest hb he hrest
  case isFalse hrest =>
    exact exec_tick_of_producing hb he (producing_of_not_rest hrest)

/-! ## The disarm -/

/-- Only START sets REFILL_EN: BEGIN and TICK, its other writers, leave it cleared (R23, R88). -/
theorem exec_arms_refill {i : Instr} {s t : State} (h : exec i s = .next t) (hs : s.refillEn = false)
    (ht : t.refillEn = true) : ∃ src, i = .start src := by
  cases i with
  | start src => exact ⟨src, rfl⟩
  | tick => simp [exec_tick_of_disarmed hs] at h
  | begin =>
    cases exec_stepped h with
    | beginAgain => simp [hs] at ht
    | beginFirst => simp at ht
  | _ =>
    rw [(exec_stepped h).eq_takeWritten] at ht
    simp [State.takeWritten, hs] at ht

/-- Settles O16: at rest a TICK disarms, a disarmed TICK is refused, and only START arms again. -/
theorem tickAtRestDisarms : Obligations.TickAtRestDisarms :=
  ⟨fun _ hb he hp => ⟨exec_tick_of_rest hb he hp.symm, exec_tick_of_disarmed rfl⟩,
    fun _ _ _ => exec_arms_refill⟩

/-! ## What every TICK keeps -/

/-- Settles O21: a TICK takes its own elements only (R30, R81). -/
theorem tickFrame : Obligations.TickFrame := by
  intro s t h
  rw [(exec_stepped h).eq_takeWritten]
  simp [State.takeWritten, State.readByte]

/-- Settles O20: a disarm writes no slot, and a run at most AVAIL successive ones from WR on. -/
theorem refillNeverOverruns : Obligations.RefillNeverOverruns := by
  intro s t h
  cases exec_stepped h with
  | tickDisarms => exact ⟨le_refl _, by simp, fun _ _ _ => rfl⟩
  | tickRefills =>
    obtain ⟨n, hn, run⟩ := s.refill_step
    obtain ⟨codes, hlen, hring⟩ := run.writes
    have hproduced := run.produced
    exact ⟨by omega, by omega, fun d hd hle => readSlot_kept hring (by omega) hd⟩

/-! ## No room -/

/-- With fewer than eight free slots no byte is unpacked (R82). -/
theorem streamLoop_of_lt {a : Nat} (bound : Nat) (s : State) (h : a < Config.bitsPerByte) :
    streamLoop bound a s = (a, s) := by
  cases bound with
  | zero => rfl
  | succ bound => rw [streamLoop, if_neg (by omega)]

theorem State.refill_streaming_of_avail_lt {s : State} (hp : s.phase = .streaming) (h : s.avail < 8) :
    s.refill = s := by
  rw [State.refill, streamLoop_of_lt _ _ h]
  exact holdLoop_of_ne (by simp [hp])

theorem State.refill_hold_of_avail_zero {s : State} (hp : s.phase = .resettingHold) (h : s.avail = 0) :
    s.refill = s := by
  rw [State.refill_hold hp, h, holdLoop]

/-- Settles O19: the run leaves its loops at once. -/
theorem tickWithoutRoomChangesNothing : Obligations.TickWithoutRoomChangesNothing := by
  rintro s hb he (⟨hp, hav⟩ | ⟨hp, hav⟩)
  · rw [exec_tick_of_producing hb he (.inl hp), State.refill_streaming_of_avail_lt hp hav]
  · rw [exec_tick_of_producing hb he (.inr hp), State.refill_hold_of_avail_zero hp hav]

/-! ## A run in Streaming, slot by slot -/

theorem State.zerosFor_eq_ite (s : State) (a : Nat) :
    s.zerosFor a = if s.bytesFor a = s.remBytes.toNat then min 40 (a - 8 * s.bytesFor a) else 0 := by
  unfold State.zerosFor State.bytesFor
  by_cases hlast : s.remBytes.toNat ≤ a / 8
  · simp [hlast]
  · rw [if_neg hlast, if_neg (by omega)]

/-- The slots a run in Streaming writes fit in the free ones (R82, R84). -/
theorem State.slots_le (s : State) (a : Nat) : 8 * s.bytesFor a + s.zerosFor a ≤ a := by
  simp only [State.bytesFor, State.zerosFor]
  split <;> omega

section StreamRefill

variable {s t : State} {j : Nat}

/-- A slot of the data reads as the code of its bit (R63, R82). -/
theorem StreamRefill.readSlot_data (run : StreamRefill s t) (hj : j < 8 * s.bytesFor s.avail) :
    t.readSlot (s.wr + BitVec.ofNat 7 j) =
      codeOfBit s.cfg ((s.readByte (s.srcPtr + BitVec.ofNat 32 (j / 8))).getLsbD (7 - j % 8)) := by
  have hfit := s.slots_le s.avail
  have hav := s.avail_lt
  rw [readSlot_written run.ring (by simp; omega) (by simp; omega), List.getElem_append_left (by simpa using hj)]
  exact s.getElem_dataCodes _ j hj

/-- A slot after the data reads as the zero code (R84, R86). -/
theorem StreamRefill.readSlot_zero (run : StreamRefill s t) (hj : j < s.zerosFor s.avail) :
    t.readSlot (s.wr + BitVec.ofNat 7 (8 * s.bytesFor s.avail + j)) = Config.zeroCode := by
  have hfit := s.slots_le s.avail
  have hav := s.avail_lt
  rw [readSlot_written run.ring (by simp; omega) (by simp; omega), List.getElem_append_right (by simp)]
  simp

theorem StreamRefill.readSlot_kept (run : StreamRefill s t) (hj : j < 128)
    (hout : 8 * s.bytesFor s.avail + s.zerosFor s.avail ≤ j) :
    t.readSlot (s.wr + BitVec.ofNat 7 j) = s.readSlot (s.wr + BitVec.ofNat 7 j) :=
  Machine.readSlot_kept run.ring (by simpa using hout) hj

end StreamRefill

/-- Settles O17: the closed form of a run in Streaming, with the number of zero slots by whether the last byte was
unpacked. -/
theorem tickUnpacksBytes : Obligations.TickUnpacksBytes := by
  intro s hb he hp hr
  have run := s.refill_stream_run hp hr
  refine ⟨s.refill, exec_tick_of_producing hb he (.inl hp), ?_⟩
  intro bytes last zeros
  have hzeros : s.zerosFor s.avail = zeros := s.zerosFor_eq_ite s.avail
  have hdata (j : Nat) (hj : j < 8 * bytes) := run.readSlot_data hj
  have hzero (j : Nat) (hj : j < zeros) := run.readSlot_zero (hzeros ▸ hj)
  have hkept (j : Nat) (hj : j < 128) (hout : 8 * bytes + zeros ≤ j) := run.readSlot_kept hj (hzeros ▸ hout)
  obtain ⟨-, hwr, hproduced, hsrc, hbytes, hphase, hreset, hen⟩ := run
  rw [hzeros] at hwr hproduced hphase hreset hen
  rw [he] at hen
  exact ⟨hsrc, hbytes, hwr, hproduced, hphase, hreset, hen, hdata, hzero, hkept⟩

/-! ## A run in ResettingHold, slot by slot -/

section HoldRefill

variable {s t : State} {z j : Nat}

/-- A slot of the reset hold reads as the zero code (R84). -/
theorem HoldRefill.readSlot_zero (run : HoldRefill s t z) (hz : z ≤ 128) (hj : j < z) :
    t.readSlot (s.wr + BitVec.ofNat 7 j) = Config.zeroCode := by
  rw [readSlot_written run.ring (by simpa using hz) (by simpa using hj)]
  simp

theorem HoldRefill.readSlot_kept (run : HoldRefill s t z) (hj : j < 128) (hout : z ≤ j) :
    t.readSlot (s.wr + BitVec.ofNat 7 j) = s.readSlot (s.wr + BitVec.ofNat 7 j) :=
  Machine.readSlot_kept run.ring (by simpa using hout) hj

end HoldRefill

/-- Settles O18: the closed form of a run in ResettingHold. -/
theorem tickWritesResetHold : Obligations.TickWritesResetHold := by
  intro s hb he hp hr
  have run := s.refill_hold_run hp hr
  have hav := s.avail_lt
  exact ⟨s.refill, exec_tick_of_producing hb he (.inr hp), run.remReset, run.wr, run.produced, run.phase,
    he ▸ run.refillEn, run.srcPtr, run.remBytes, fun j hj => run.readSlot_zero (by omega) hj,
    fun j hj hout => run.readSlot_kept hj hout⟩

/-! ## The worked example of R93 -/

theorem codesOfByte_A5 (c : Config) :
    codesOfByte c 0xA5 =
      [c.longCode, c.shortCode, c.longCode, c.shortCode, c.shortCode, c.longCode, c.shortCode, c.longCode] := rfl

/-- The slots from WR on read as the first codes of a run in Streaming. -/
theorem StreamRefill.map_readSlot_data {s t : State} (run : StreamRefill s t) :
    (List.range (8 * s.bytesFor s.avail)).map (fun j => t.readSlot (s.wr + BitVec.ofNat 7 j)) =
      s.dataCodes (s.bytesFor s.avail) := by
  refine List.ext_getElem (by simp) fun j hj _ => ?_
  have hj' : j < 8 * s.bytesFor s.avail := by simpa using hj
  rw [List.getElem_map, List.getElem_range, run.readSlot_data hj', s.getElem_dataCodes _ j hj']

/-- Settles O22: of 127 free slots one byte takes 8, and the 119 left hold the 40 zero slots. -/
theorem workedExampleA5 : Obligations.WorkedExampleA5 := by
  intro s hp hrem hbyte hempty
  have hav : s.avail = 127 := State.avail_of_empty hempty
  have hr : s.remBytes.toNat = 1 := by rw [hrem]; rfl
  have hbytes : s.bytesFor s.avail = 1 := by simp [State.bytesFor, hav, hr]
  have hzeros : s.zerosFor s.avail = 40 := by simp [State.zerosFor, hav, hr]
  have hstream : streamLoop s.avail s.avail s = (119, (s.unpacked 1).enterHold) := by
    rw [streamLoop_eq (by omega) hp (by omega), hbytes, hr, if_pos rfl, hav]
  have run : StreamRefill s s.refill := s.refill_stream_run hp (by omega)
  have hdata := run.map_readSlot_data
  have hzero (j : Nat) (hj : j < 40) := run.readSlot_zero (hzeros ▸ hj)
  obtain ⟨-, -, -, -, hrem', hphase, hreset, hen⟩ := run
  simp only [hbytes, hzeros, hr] at hdata hzero hrem' hphase hreset hen
  refine ⟨⟨_, hstream, ?_, rfl, rfl, rfl, ?_⟩, ?_, hzero, hphase, hreset, ?_, hen, fun hb he => ?_⟩
  · simp [hrem]
  · rw [State.refill, hstream]
  · rw [hdata, ← codesOfByte_A5, ← hbyte]
    simp [State.dataCodes]
  · exact BitVec.eq_of_toNat_eq hrem'
  · exact exec_tick_of_producing hb he (.inl hp)

end Sys2Proof.Machine
end

section
/-! The Engine and the Completer (41_consumer.md): one CONSUME, one COMPLETE, and the way back to Idle. -/

namespace Sys2Proof.Machine

/-! ## CONSUME -/

/-- The ghost test of CONSUME writes FAULT only (R105). -/
theorem State.checkUnderrun_eq (s : State) :
    s.checkUnderrun =
      { s with fault := if s.consumed = s.produced then addMark s.fault (.underrun s.rd) else s.fault } := by
  unfold State.checkUnderrun
  split <;> rfl

/-- The end of a CONSUME raises the completion interrupt at the count's end (R103). -/
theorem State.checkDone_eq (s : State) :
    s.checkDone = { s with donePend := if s.engRem = 0 then true else s.donePend } := by
  unfold State.checkDone
  split <;> rfl

theorem cursorNext_eq (c : Cursor) : cursorNext c = BitVec.ofNat 7 ((c.toNat + 1) % 128) := by
  unfold cursorNext
  bv_omega

theorem exec_consume_of_enabled {s : State} (hb : s.begun = true) (he : s.engEn = true) (hr : 0 < s.engRem.toNat) :
    exec .consume s = .next s.checkUnderrun.takeSlot.checkDone :=
  if_pos (State.consumeEnabled_iff.mpr ⟨hb, he, hr⟩)

/-- Settles O23: the test, the move and the count's end each write their own elements; above 0 the count does not wrap. -/
theorem consumeMovesOneSlot : Obligations.ConsumeMovesOneSlot := by
  intro s hb he hr
  have hcount : s.engRem - 1 = BitVec.ofNat 32 (s.engRem.toNat - 1) := by bv_omega
  have hlast : BitVec.ofNat 32 (s.engRem.toNat - 1) = 0 ↔ s.engRem.toNat = 1 := by bv_omega
  rw [exec_consume_of_enabled hb he hr, State.checkDone_eq, State.checkUnderrun_eq]
  simp only [State.takeSlot, State.readSlot, cursorNext_eq, hcount, hlast]

/-- Settles O24: the count is part of the enabling condition. -/
theorem engineStopsAtZeroCount : Obligations.EngineStopsAtZeroCount := by
  intro s hzero
  obtain ⟨-, -, -, -, noConsume, -⟩ := eventsStepExactlyWhenEnabled s
  refine noConsume fun ⟨_, _, hpos⟩ => ?_
  simp [hzero] at hpos

/-! ## COMPLETE -/

/-- Settles O25: the handler's work is the whole of an enabled COMPLETE. -/
theorem completeReturnsToIdle : Obligations.CompleteReturnsToIdle := fun _ hb hd =>
  exec_of_stepped (.completes (State.completeEnabled_iff.mpr ⟨hb, hd⟩))

/-- The Engine that has raised its interrupt has consumed the slots of the cycle (R103, R171 items 2 and 3). -/
theorem State.CycleInv.consumed_of_donePend {s : State} (inv : s.CycleInv) (hd : s.donePend = true) :
    s.consumed = s.cfg.totalSlots := by
  obtain ⟨hen, hrem⟩ := inv.doneStopped hd
  simpa [hrem] using inv.engineCount hen

/-- Settles O26: STATE is Draining, where every slot of the cycle has been produced. -/
theorem completionFindsDraining : Obligations.CompletionFindsDraining := by
  intro s inv hu hd
  have hphase := inv.draining_of_donePend hu hd
  exact ⟨hphase, inv.consumed_of_donePend hd, (inv.drainingCount hphase).2.2⟩

/-! ## The way back to Idle -/

/-- After BEGIN an operation other than COMPLETE does not enter Idle (R107). -/
theorem exec_enters_idle {i : Instr} {s t : State} (hb : s.begun = true) (h : exec i s = .next t)
    (hs : s.phase ≠ .idle) (ht : t.phase = .idle) : i = .complete := by
  have hne : t.phase ≠ s.phase := ht ▸ hs.symm
  rcases (stateMovesForward i s t hb h hne).1 with ⟨-, hidle⟩ | ⟨-, -, hhold | hdrain⟩ | ⟨-, -, hdrain⟩ | ⟨hi, -⟩
  · exact absurd hidle hs
  · cases ht.symm.trans hhold
  · cases ht.symm.trans hdrain
  · cases ht.symm.trans hdrain
  · exact hi

/-- No operation takes BEGUN back (R21). -/
theorem exec_begun {i : Instr} {s t : State} (h : exec i s = .next t) (hb : s.begun = true) : t.begun = true := by
  cases i with
  | begin => rw [(exec_stepped h).begin_again hb]; exact hb
  | _ => rw [(exec_stepped h).eq_takeWritten]; exact hb

/-- No operation writes the configuration (R25). -/
theorem exec_cfg {i : Instr} {s t : State} (h : exec i s = .next t) : t.cfg = s.cfg := by
  rw [(exec_stepped h).eq_takeWritten]
  cases i <;> rfl

/-- What each operation of a run keeps, the run keeps. -/
theorem execAll_keeps {P : State → Prop} {ops : List Instr} {s t : State}
    (keep : ∀ i ∈ ops, ∀ s t, exec i s = .next t → P s → P t) (h : execAll ops s = .next t) (hs : P s) : P t := by
  induction ops generalizing s with
  | nil => cases h; exact hs
  | cons i rest ih =>
    simp only [execAll] at h
    cases hi : exec i s with
    | next u =>
      rw [hi] at h
      exact ih (fun j hj => keep j (List.mem_cons_of_mem i hj)) h (keep i List.mem_cons_self s u hi hs)
    | fault => simp [hi] at h
    | refused => simp [hi] at h

/-- A begun block with the configuration `c` in the middle of a cycle. -/
def State.InCycle (c : Config) (s : State) : Prop := s.begun = true ∧ s.phase ≠ .idle ∧ s.cfg = c

theorem exec_inCycle {c : Config} {i : Instr} {s t : State} (hi : i ≠ .complete) (h : exec i s = .next t)
    (hs : s.InCycle c) : t.InCycle c := by
  obtain ⟨hb, hp, hc⟩ := hs
  exact ⟨exec_begun h hb, fun ht => hi (exec_enters_idle hb h hp ht), (exec_cfg h).trans hc⟩

/-- Settles O27: a run without COMPLETE stays in the cycle, where a START that fits is held. -/
theorem onlyCompleteReentersIdle : Obligations.OnlyCompleteReentersIdle := by
  refine ⟨fun _ _ _ => exec_enters_idle, fun ops s t src hb hp hno h hn hfit => ?_⟩
  have hrun : t.InCycle s.cfg :=
    execAll_keeps (fun i hi _ _ => exec_inCycle fun e => hno (e ▸ hi)) h ⟨hb, hp, rfl⟩
  obtain ⟨hb', hp', hcfg⟩ := hrun
  have hnowrap : t.sourceWraps src = false := by
    simpa [State.sourceWraps, hcfg, Config.totalBytes, Config.bytesPerLed] using hfit
  exact ⟨hp', exec_of_stepped (.startHeld src hb' (hcfg ▸ hn) hnowrap hp')⟩

end Sys2Proof.Machine
end

section
/-! The programmed counts (R110) and the line in one slot (R108). -/

namespace Sys2Proof.Machine

/-- Settles O48: both counts are below `2^32`, so nothing is lost at the registers' width. -/
theorem countsFitTheirRegisters : Obligations.CountsFitTheirRegisters := fun c =>
  ⟨Nat.mod_eq_of_lt (totalBytes_lt c), Nat.mod_eq_of_lt (totalSlots_lt c), totalSlots_eq c⟩

theorem slotPulse_of_lt {c : Config} {v : Code} (h : v.toNat < c.period.toNat) :
    slotPulse c v = ⟨v.toNat, c.period.toNat - v.toNat⟩ := if_pos h

/-- Settles O49: the zero code and both data codes are below PERIOD (R5). -/
theorem slotPulseFillsThePeriod : Obligations.SlotPulseFillsThePeriod := by
  intro c
  have hshort := c.shortPos
  have horder := c.shortLtLong
  have hlong := c.longLtPeriod
  have hzero : slotPulse c 0x0000 = ⟨0, c.period.toNat⟩ := slotPulse_of_lt (Nat.zero_lt_of_lt hlong)
  refine ⟨fun v => slotPulse_of_lt, hzero, ?_⟩
  rw [slotPulse_of_lt hlong, slotPulse_of_lt (horder.trans hlong)]
  dsimp only
  omega

end Sys2Proof.Machine
end

section
/-! The Host (42_host_interface.md): BEGIN, the queries, POKE, the cases of START and what the start sequence leaves. -/

namespace Sys2Proof.Machine

/-! ## An outstanding START -/

theorem State.hostBlocked_of_outstanding {s : State} {src : Addr} (h : s.outstanding = some src) (i : Instr) :
    s.hostBlocked i = true ↔ i.agent = .host ∧ i ≠ .start src := by
  simp [State.hostBlocked, h]

/-- Settles O7: a step from the word of an operation asks only whether the Host is blocked. -/
theorem outstandingStartBlocksHost : Obligations.OutstandingStartBlocksHost := by
  intro s src i hout
  have hblocked := State.hostBlocked_of_outstanding hout i
  rw [step_withFetchWord_encode]
  refine ⟨fun hhost hne => if_pos (hblocked.mpr ⟨hhost, hne⟩), fun hfree => if_neg fun hb => ?_⟩
  obtain ⟨hhost, hne⟩ := hblocked.mp hb
  exact hfree.elim (· hhost) hne

/-! ## BEGIN and the queries -/

/-- Settles O10: BEGUN decides between the mark and the initialisation. -/
theorem beginInitialisesOnce : Obligations.BeginInitialisesOnce := fun _ =>
  ⟨fun hb => exec_of_stepped (.beginAgain hb), fun hb => exec_of_stepped (.beginFirst hb)⟩

/-- The value BUSY delivers (R26, R121). -/
theorem State.setWidth_busy (s : State) :
    (BitVec.ofBool s.busy).setWidth 32 = if s.phase = .streaming then 1 else 0 := by
  rw [State.busy]
  cases s.phase <;> rfl

/-- Settles O28: BEGUN decides between the mark with a free value and the answer. -/
theorem busyAnswersStreaming : Obligations.BusyAnswersStreaming := fun s =>
  ⟨fun hb => s.setWidth_busy ▸ exec_of_stepped (.busyAnswers hb), fun hb => exec_of_stepped (.busyEarly hb)⟩

/-- Settles O29: the answer is the code of STATE, widened. -/
theorem rdstateAnswersState : Obligations.RdstateAnswersState := by
  refine fun s => ⟨fun hb => ?_, fun hb => exec_of_stepped (.rdstateEarly hb)⟩
  rw [exec_of_stepped (.rdstateAnswers hb), State.deliver]
  cases s.phase <;> rfl

/-! ## POKE -/

theorem exec_poke (addr : Addr) (data : Byte) (s : State) :
    exec (.poke addr data) s = .next ((s.pokeMark addr).writeByte addr data) := rfl

/-- The mark of a POKE, by BEGUN, STATE and the region of the cycle (R123). -/
theorem State.pokeMark_eq (s : State) (addr : Addr) :
    s.pokeMark addr =
      { s with fault :=
          if s.begun = false then addMark s.fault (.contract .poke)
          else if s.phase = .streaming ∧ s.inSource addr = true then addMark s.fault (.srcMutation addr)
          else s.fault } := by
  unfold State.pokeMark
  split
  · rfl
  · split <;> rfl

@[simp] theorem State.pokeMark_mem (s : State) (addr : Addr) : (s.pokeMark addr).mem = s.mem := by
  rw [State.pokeMark_eq]

/-- Settles O30: the mark leaves the source bytes, and the write changes one of them. -/
theorem pokeWritesOneByte : Obligations.PokeWritesOneByte := by
  intro addr data s hwf
  have hwf' : Memory.wf (s.pokeMark addr).mem = true := by simpa using hwf
  refine ⟨_, exec_poke addr data s, State.readByte_writeByte_same hwf', fun b hb => ?_,
    (exec_stepped (exec_poke addr data s)).eq_takeWritten⟩
  rw [State.readByte_writeByte_other hwf' hb, State.readByte, State.pokeMark_mem, State.readByte]

/-- The region of the running cycle, its bounds written out (R14, R123). -/
theorem State.inSource_iff (s : State) (addr : Addr) :
    s.inSource addr = true ↔
      (s.srcPtr.toNat : Int) - (3 * s.cfg.n.toNat - s.remBytes.toNat) ≤ addr.toNat ∧
        (addr.toNat : Int) < s.srcPtr.toNat - (3 * s.cfg.n.toNat - s.remBytes.toNat) + 3 * s.cfg.n.toNat := by
  simp [State.inSource, State.sourceBase, Config.totalBytes, Config.bytesPerLed]

/-- Settles O31: the write of the byte leaves the mark. -/
theorem pokeMarksMutation : Obligations.PokeMarksMutation := by
  intro addr data s t h
  cases h
  rw [State.writeByte_fault, State.pokeMark_eq]
  simp only [State.inSource_iff]

/-! ## The cases of START -/

theorem State.sourceWraps_iff (s : State) (src : Addr) :
    s.sourceWraps src = true ↔ 2 ^ 32 < src.toNat + 3 * s.cfg.n.toNat := decide_eq_true_iff

theorem State.sourceWraps_of_le {s : State} {src : Addr} (h : src.toNat + 3 * s.cfg.n.toNat ≤ 2 ^ 32) :
    s.sourceWraps src = false :=
  decide_eq_false (Nat.not_lt.mpr h)

/-- The start sequence, written out around its one run (R119). -/
theorem State.startCycle_eq (s : State) (src : Addr) :
    s.startCycle src =
      { State.refill { s with
          refillEn := false, srcPtr := src, phase := .streaming, remBytes := BitVec.ofNat 32 (3 * s.cfg.n.toNat),
          remReset := 0, wr := 0, rd := 0, produced := 0, consumed := 0 } with
        engRem := BitVec.ofNat 32 (24 * s.cfg.n.toNat + 40), engEn := true, refillEn := true,
        outstanding := none } := by
  simp only [State.startCycle, State.armEngine, State.refill_cfg]
  rfl

/-- Settles O11: the five cases are those in which START answers a next state. -/
theorem startFollowsItsCases : Obligations.StartFollowsItsCases := fun src s =>
  ⟨fun hb => exec_of_stepped (.startEarly src hb),
    fun hb hn => exec_of_stepped (.startNoLeds src hb hn),
    fun hb hn hwrap => exec_of_stepped (.startWraps src hb hn ((s.sourceWraps_iff src).mpr hwrap)),
    fun hb hn hfit hp => exec_of_stepped (.startHeld src hb hn (State.sourceWraps_of_le hfit) hp),
    fun hb hn hfit hp =>
      s.startCycle_eq src ▸ exec_of_stepped (.startRuns src hb hn (State.sourceWraps_of_le hfit) hp)⟩

/-- The prefill leaves the cycle running (R20, R119). -/
theorem State.startCycle_phase_ne_idle (s : State) (src : Addr) : (s.startCycle src).phase ≠ .idle := by
  have hphase : (s.startCycle src).phase = (s.armProducer src).refill.phase := rfl
  rw [hphase]
  rcases (s.armProducer src).refill_phase_cases with h | ⟨-, h | h⟩ | ⟨-, h⟩ <;> simp [h]

/-- Settles O13: COMPLETE writes Idle and leaves the outstanding START, which then runs the start sequence. -/
theorem heldStartIsReleasedByComplete : Obligations.HeldStartIsReleasedByComplete := by
  intro src s hb hn hfit hp hd
  have hwraps : s.sourceWraps src = false := State.sourceWraps_of_le hfit
  exact ⟨s.hold src, (s.hold src).completeWork, (s.hold src).completeWork.startCycle src,
    exec_of_stepped (.startHeld src hb hn hwraps hp), rfl, completeReturnsToIdle (s.hold src) hb hd, rfl, rfl,
    exec_of_stepped (.startRuns src hb hn hwraps rfl), rfl, rfl, State.startCycle_phase_ne_idle _ src⟩

/-! ## What the start sequence leaves -/

@[simp] theorem State.startCycle_rd (s : State) (src : Addr) : (s.startCycle src).rd = 0 :=
  (s.armProducer src).refill_rd

@[simp] theorem State.startCycle_consumed (s : State) (src : Addr) : (s.startCycle src).consumed = 0 :=
  (s.armProducer src).refill_consumed

/-- START programs the bytes of the cycle: the count fits its register (R110, R119). -/
theorem State.armProducer_remBytes_toNat (s : State) (src : Addr) :
    (s.armProducer src).remBytes.toNat = 3 * s.cfg.n.toNat := (countsFitTheirRegisters s.cfg).1

theorem State.armProducer_avail (s : State) (src : Addr) : (s.armProducer src).avail = 127 :=
  State.avail_of_empty rfl

/-- The bytes the prefill unpacks into the 127 free slots (R119). -/
theorem State.armProducer_bytesFor (s : State) (src : Addr) :
    (s.armProducer src).bytesFor 127 = min (3 * s.cfg.n.toNat) 15 := by
  rw [State.bytesFor, State.armProducer_remBytes_toNat]

/-- The zero slots of the prefill (R119). -/
theorem State.armProducer_zerosFor (s : State) (src : Addr) :
    (s.armProducer src).zerosFor 127 = if 3 * s.cfg.n.toNat ≤ 15 then min 40 (127 - 24 * s.cfg.n.toNat) else 0 := by
  rw [State.zerosFor, State.armProducer_remBytes_toNat, ← Nat.mul_assoc]

/-- The prefill of a START with LEDs is a run in Streaming (R81, R119). -/
theorem State.armProducer_run {s : State} (hn : s.cfg.n ≠ 0) (src : Addr) :
    StreamRefill (s.armProducer src) (s.armProducer src).refill := by
  refine State.refill_stream_run _ rfl ?_
  have hpos : s.cfg.n.toNat ≠ 0 := fun e => hn (BitVec.eq_of_toNat_eq e)
  rw [State.armProducer_remBytes_toNat]
  omega

/-- The byte `k` addresses above `src`, when that address lies in the source byte space (R48, R94). -/
theorem State.readByte_add (s : State) {src : Addr} {k : Nat} (h : src.toNat + k < 2 ^ 32) :
    s.readByte (src + BitVec.ofNat 32 k) = Memory.read s.mem (src.toNat + k) := by
  have haddr : (src + BitVec.ofNat 32 k).toNat = src.toNat + k := by
    rw [BitVec.toNat_add, BitVec.toNat_ofNat]
    omega
  rw [State.readByte, haddr]

/-- The slots the prefill writes are the first codes of the frame: its data, and zero slots only when the data is
complete (R64, R119). -/
theorem State.readSlot_prefill {s : State} {src : Addr} (hn : s.cfg.n ≠ 0)
    (hfit : src.toNat + 3 * s.cfg.n.toNat ≤ 2 ^ 32) {j : Nat}
    (hj : j < 8 * (s.armProducer src).bytesFor 127 + (s.armProducer src).zerosFor 127) :
    (s.frame src)[j]? = some ((s.armProducer src).refill.readSlot (BitVec.ofNat 7 j)) := by
  have run := State.armProducer_run hn src
  obtain ⟨-, frame_data, frame_zero⟩ := frameIsMsbFirst s src
  have hbytes := s.armProducer_bytesFor src
  have hzeros := s.armProducer_zerosFor src
  by_cases hdata : j < 8 * (s.armProducer src).bytesFor 127
  · have hslot := run.readSlot_data (s.armProducer_avail src ▸ hdata)
    have hbyte := (s.armProducer src).readByte_add (src := src) (k := j / 8) (by omega)
    rw [State.armProducer_wr, zero_add, State.armProducer_srcPtr, hbyte] at hslot
    rw [frame_data j (by omega), hslot]
    rfl
  · obtain ⟨i, rfl⟩ := Nat.exists_eq_add_of_le (Nat.not_lt.mp hdata)
    have hi : i < (s.armProducer src).zerosFor 127 := by omega
    have hslot := run.readSlot_zero (s.armProducer_avail src ▸ hi)
    rw [State.armProducer_avail, State.armProducer_wr, zero_add] at hslot
    split at hzeros
    · rw [frame_zero _ (by omega) (by omega), hslot]
      rfl
    · omega

/-- The slots the prefill does not write read as before (R119). -/
theorem State.readSlot_prefill_kept {s : State} (hn : s.cfg.n ≠ 0) (src : Addr) {j : Nat} (hj : j < 128)
    (hout : 8 * (s.armProducer src).bytesFor 127 + (s.armProducer src).zerosFor 127 ≤ j) :
    (s.armProducer src).refill.readSlot (BitVec.ofNat 7 j) = s.readSlot (BitVec.ofNat 7 j) := by
  have hslot := (State.armProducer_run hn src).readSlot_kept hj (s.armProducer_avail src ▸ hout)
  rwa [State.armProducer_wr, zero_add] at hslot

/-- Settles O12: the prefill is the run in Streaming that finds 127 free slots and `3N` bytes; of what it leaves
S6 to S8 write REFILL_EN only. -/
theorem startPrefillsTheRing : Obligations.StartPrefillsTheRing := by
  intro src s hb hn hfit hp
  refine ⟨s.startCycle src, exec_of_stepped (.startRuns src hb hn (State.sourceWraps_of_le hfit) hp), ?_⟩
  intro bytes zeros
  have hbytes : (s.armProducer src).bytesFor 127 = bytes := s.armProducer_bytesFor src
  have hzeros : (s.armProducer src).zerosFor 127 = zeros := s.armProducer_zerosFor src
  have hframe (j : Nat) (hj : j < 8 * bytes + zeros) := State.readSlot_prefill hn hfit (hbytes ▸ hzeros ▸ hj)
  have hkept (j : Nat) (hj : j < 128) (hout : 8 * bytes + zeros ≤ j) :=
    State.readSlot_prefill_kept hn src hj (hbytes ▸ hzeros ▸ hout)
  have hlast : bytes = 3 * s.cfg.n.toNat ↔ 3 * s.cfg.n.toNat ≤ 15 := min_eq_left_iff
  have hmost : zeros ≤ 40 := by dsimp only [zeros]; split <;> omega
  have hdone : zeros = 40 ↔ 40 ≤ zeros := ⟨Eq.ge, le_antisymm hmost⟩
  have hslots : 8 * bytes + zeros ≤ 127 := hbytes ▸ hzeros ▸ (s.armProducer src).slots_le 127
  obtain ⟨-, hwr, hproduced, hsrc, hrem, hphase, hreset, -⟩ := State.armProducer_run hn src
  simp only [State.armProducer_avail, hbytes, hzeros, State.armProducer_remBytes_toNat, State.armProducer_wr,
    State.armProducer_produced, State.armProducer_srcPtr, State.armProducer_remReset, hlast, hdone, zero_add]
    at hwr hproduced hsrc hrem hphase hreset
  refine ⟨?phase, ?wr, s.startCycle_rd src, hproduced, s.startCycle_consumed src, hsrc, hrem, ?remReset, ?engRem, rfl,
    rfl, rfl, hframe, hkept, ?unwritten⟩
  case phase =>
    simp only [← Nat.not_le, ite_not]
    exact hphase
  case wr =>
    calc (s.armProducer src).refill.wr.toNat
      _ = (8 * bytes + zeros) % 2 ^ 7 := by rw [hwr, BitVec.toNat_ofNat]
      _ = 8 * bytes + zeros := Nat.mod_eq_of_lt (by omega)
  case remReset =>
    calc (s.armProducer src).refill.remReset.toNat
      _ = if 3 * s.cfg.n.toNat ≤ 15 then (40 - zeros) % 2 ^ 16 else 0 := by rw [hreset]; split <;> rfl
      _ = if 3 * s.cfg.n.toNat ≤ 15 then 40 - zeros else 0 := by rw [Nat.mod_eq_of_lt (by omega)]
  case engRem =>
    rw [State.startCycle_eq]
    exact (countsFitTheirRegisters s.cfg).2.1
  case unwritten => simp [State.startCycle]

/-! ## A block without LEDs -/

/-- A begun block with no LED, at rest, with the codes `out` emitted and the ring `ring` (R118). -/
def State.LedlessAtRest (out : List Code) (ring : Vector (Option Code) Config.cap) (s : State) : Prop :=
  (s.begun = true ∧ s.cfg.n = 0) ∧
    s.phase = .idle ∧ s.engEn = false ∧ s.refillEn = false ∧ s.donePend = false ∧ s.out = out ∧ s.ring = ring

/-- No event is enabled at rest, and with no LED START changes nothing (R118). -/
theorem exec_ledlessAtRest {out : List Code} {ring : Vector (Option Code) Config.cap} {i : Instr} {s t : State}
    (h : exec i s = .next t) (hs : s.LedlessAtRest out ring) : t.LedlessAtRest out ring := by
  have ⟨⟨hb, hn⟩, _, hengine, hrefill, hdone, _, _⟩ := hs
  cases exec_stepped h with
  | beginFirst hnot => simp [hb] at hnot
  | startRuns _ _ hleds => exact absurd hn hleds
  | tickDisarms he | tickRefills he => simp [State.tickEnabled, hrefill] at he
  | consumeUnderruns he | consumeMoves he => simp [State.consumeEnabled, hengine] at he
  | completes he => simp [State.completeEnabled, hdone] at he
  | _ => exact hs

/-- Settles O38: each operation of the run keeps the rest. -/
theorem ledlessBlockStaysIdle : Obligations.LedlessBlockStaysIdle := by
  intro ops s t hb hn hp hengine hrefill hdone h
  have hrest : t.LedlessAtRest s.out s.ring :=
    execAll_keeps (fun _ _ _ _ => exec_ledlessAtRest) h ⟨⟨hb, hn⟩, hp, hengine, hrefill, hdone, rfl, rfl⟩
  exact hrest.2

end Sys2Proof.Machine
end

section
/-! Faults and admission (60_exceptions.md): the marks of each operation (R136, R138) and the configurations that have a
machine (R140). -/

namespace Sys2Proof

/-! ## Admission -/

theorem RawConfig.wellFormed_iff {r : RawConfig} :
    r.WellFormed ↔
      r.speed = .fast ∧ 0 < r.shortCode ∧ r.shortCode < r.longCode ∧ r.longCode < r.period ∧ r.period ≤ 0xFFFF ∧
        r.n ≤ Config.nMax := by
  constructor
  · intro h
    refine ⟨?_, RawConfig.bounds_of_wellFormed h⟩
    cases hspeed : r.speed with
    | fast => rfl
    | slow => simp [RawConfig.WellFormed, RawConfig.refusal, hspeed] at h
  · rintro ⟨hspeed, hshort, horder, hslot, hperiod, hn⟩
    rw [RawConfig.WellFormed, RawConfig.refusal, if_neg (by simp [hspeed]), if_neg (Nat.ne_of_gt hshort),
      if_neg (Nat.not_le.mpr horder), if_neg (Nat.not_le.mpr hslot), if_neg (Nat.not_lt.mpr hperiod),
      if_neg (Nat.not_lt.mpr hn)]

theorem RawConfig.configure_eq_ok_iff {r : RawConfig} {c : Config} :
    r.configure = .ok c ↔ ∃ h : r.WellFormed, r.toConfig h = c := by
  unfold RawConfig.configure
  split
  next h => simp [RawConfig.WellFormed, h]
  next h => simp [RawConfig.WellFormed, h]

/-- `N_MAX` is the largest LED count whose slots fit the counter (R4, R5 (c)). -/
theorem le_nMax_iff (n : Nat) : n ≤ Config.nMax ↔ 24 * n + 40 ≤ 2 ^ 32 - 1 := by
  rw [Config.nMax]
  omega

/-- An admitted configuration loses nothing at the widths of R4. -/
theorem RawConfig.toConfig_values {r : RawConfig} (h : r.WellFormed) :
    (r.toConfig h).n.toNat = r.n ∧ (r.toConfig h).longCode.toNat = r.longCode ∧
      (r.toConfig h).shortCode.toNat = r.shortCode ∧ (r.toConfig h).period.toNat = r.period := by
  obtain ⟨-, -, horder, hslot, hperiod, hn⟩ := RawConfig.wellFormed_iff.mp h
  rw [Config.nMax] at hn
  refine ⟨?_, ?_, ?_, ?_⟩ <;> exact Nat.mod_eq_of_lt (by omega)

/-- Settles O47: the block is configured exactly from the requests that break no constraint of R5. -/
theorem configurationAdmission : Obligations.ConfigurationAdmission := by
  refine fun r => ⟨?_, fun c h => ?_⟩
  · simp only [RawConfig.configure_eq_ok_iff, ← le_nMax_iff, ← RawConfig.wellFormed_iff]
    exact ⟨fun ⟨_, h, _⟩ => h, fun h => ⟨_, h, rfl⟩⟩
  · obtain ⟨hwf, rfl⟩ := RawConfig.configure_eq_ok_iff.mp h
    exact RawConfig.toConfig_values hwf

end Sys2Proof

namespace Sys2Proof.Machine

/-! ## The marks of an operation -/

@[simp] theorem State.checkDone_fault (s : State) : s.checkDone.fault = s.fault := by
  rw [State.checkDone_eq]

@[simp] theorem State.startCycle_fault (s : State) (src : Addr) : (s.startCycle src).fault = s.fault :=
  (s.armProducer src).refill_fault

/-- Settles O33: in each case of an operation the conditions of R136 say which mark is raised, if any. -/
theorem marksRaisedExactly : Obligations.MarksRaisedExactly := by
  intro i s t h
  cases exec_stepped h with
  | beginAgain hb | startEarly _ hb | busyEarly hb | rdstateEarly hb | pokeEarly _ _ hb => simp [hb]
  | beginFirst hb | busyAnswers hb | rdstateAnswers hb => simp [hb]
  | startNoLeds _ hb hn => simp [hb, hn]
  | startWraps src _ hn hwrap => exact (if_pos (.inr ⟨hn, (s.sourceWraps_iff src).mp hwrap⟩)).symm
  | startHeld _ hb _ hfit _ | startRuns _ hb _ hfit _ =>
    simp only [← State.sourceWraps_iff]
    simp [hb, hfit]
  | pokeMutates _ _ hb hp hin => simp [hb, hp, hin]
  | pokeWrites _ _ hb hout => simp [hb, hout]
  | consumeUnderruns _ hunwritten => simp [hunwritten]
  | consumeMoves _ hwritten => simp [hwritten]
  | tickDisarms | tickRefills | completes => simp

end Sys2Proof.Machine
end

section
/-! The invariants of the cycle under a Refill run (R81, R166, R171): how far the run comes, and what the slots of the
cycle read afterwards. Slot `k` of the cycle is ring slot `k mod 128`. -/

namespace Sys2Proof.Machine

section refill

variable {s : State}

/-- Slot `k` of the cycle, counted from WR (R94, R171 item 4). -/
theorem State.CycleInv.slot_from_wr (inv : s.CycleInv) {k : Nat} (hk : s.produced ≤ k) :
    BitVec.ofNat 7 k = s.wr + BitVec.ofNat 7 (k - s.produced) := by
  have hwr := inv.writeCursor
  simp only [Config.cap] at hwr
  bv_omega

/-- Where a Refill run from `s` leaves the Producer (R166, R171 items 5 to 7): in Streaming with fewer than eight free
slots, in ResettingHold with none, or in Draining. -/
structure RefillProgress (s t : State) : Prop where
  running : t.phase ≠ .idle
  streaming : t.phase = .streaming →
    (1 ≤ t.remBytes.toNat ∧ t.remBytes.toNat ≤ t.cfg.totalBytes ∧
      t.produced = 8 * (t.cfg.totalBytes - t.remBytes.toNat)) ∧
    s.produced + s.avail ≤ t.produced + 7
  hold : t.phase = .resettingHold →
    (t.remBytes = 0 ∧ 1 ≤ t.remReset.toNat ∧ t.remReset.toNat ≤ 40 ∧
      t.produced = 8 * t.cfg.totalBytes + (40 - t.remReset.toNat)) ∧
    t.produced = s.produced + s.avail
  draining : t.phase = .draining → t.remBytes = 0 ∧ t.remReset = 0 ∧ t.produced = 8 * t.cfg.totalBytes + 40

theorem State.CycleInv.refill_progress (inv : s.CycleInv) (hp : s.phase = .streaming ∨ s.phase = .resettingHold) :
    RefillProgress s s.refill := by
  have hcfg : s.refill.cfg.totalBytes = s.cfg.totalBytes := by rw [State.refill_cfg]
  rcases hp with hp | hp
  · obtain ⟨hpos, hle, hprod⟩ := inv.streamingCount hp
    obtain ⟨-, -, hprod', -, hrem, hphase, hreset, -⟩ := s.refill_stream_run hp hpos
    have hbytes : s.bytesFor s.avail = min s.remBytes.toNat (s.avail / 8) := rfl
    have hzeros := s.zerosFor_eq_ite s.avail
    by_cases hlast : s.bytesFor s.avail = s.remBytes.toNat
    · rw [if_pos hlast] at hphase hreset hzeros
      have hzero : s.refill.remBytes = 0 := BitVec.eq_of_toNat_eq (by rw [hrem, hlast, Nat.sub_self]; rfl)
      have hreset' : s.refill.remReset.toNat = 40 - s.zerosFor s.avail := by
        rw [hreset, BitVec.toNat_ofNat, Nat.mod_eq_of_lt (by omega)]
      by_cases hdone : s.zerosFor s.avail = 40
      · rw [if_pos hdone] at hphase
        refine ⟨by simp [hphase], by simp [hphase], by simp [hphase], fun _ => ?_⟩
        exact ⟨hzero, by rw [hreset, hdone]; rfl, by omega⟩
      · rw [if_neg hdone] at hphase
        refine ⟨by simp [hphase], by simp [hphase], fun _ => ?_, by simp [hphase]⟩
        exact ⟨⟨hzero, by omega, by omega, by omega⟩, by omega⟩
    · rw [if_neg hlast] at hphase hzeros
      refine ⟨by simp [hphase], fun _ => ?_, by simp [hphase], by simp [hphase]⟩
      exact ⟨⟨by omega, by omega, by omega⟩, by omega⟩
  · obtain ⟨hbytes, hpos, hle, hprod⟩ := inv.holdCount hp
    obtain ⟨-, -, hprod', -, hrem, hphase, hreset, -⟩ := s.refill_hold_run hp hpos
    simp only [Config.resetBits] at hle hprod
    have hzero : s.refill.remBytes = 0 := hrem.trans hbytes
    by_cases hdone : s.remReset.toNat ≤ s.avail
    · rw [if_pos hdone] at hphase
      refine ⟨by simp [hphase], by simp [hphase], by simp [hphase], fun _ => ?_⟩
      exact ⟨hzero, BitVec.eq_of_toNat_eq (by rw [hreset, min_eq_left hdone, Nat.sub_self]; rfl), by omega⟩
    · rw [if_neg hdone] at hphase
      refine ⟨by simp [hphase], by simp [hphase], fun _ => ?_, by simp [hphase]⟩
      exact ⟨⟨hzero, by omega, by omega, by omega⟩, by omega⟩

/-- A run writes no slot that the Engine has still to read (R90). -/
theorem State.CycleInv.refill_readSlot_unread (inv : s.CycleInv) (hu : s.underrun = false) {k : Nat}
    (hlo : s.consumed ≤ k) (hhi : k < s.produced) :
    s.refill.readSlot (BitVec.ofNat 7 k) = s.readSlot (BitVec.ofNat 7 k) := by
  obtain ⟨n, hn, run⟩ := s.refill_step
  obtain ⟨codes, hlen, hring⟩ := run.writes
  have hav := State.avail_of_cycleInv inv hu
  have hahead := (inv.ahead hu).2
  simp only [Config.cap] at hahead
  have hslot : BitVec.ofNat 7 k = s.wr + BitVec.ofNat 7 (k + 128 - s.produced) := by
    have hwr := inv.writeCursor
    simp only [Config.cap] at hwr
    bv_omega
  rw [hslot]
  exact readSlot_kept hring (by omega) (by omega)

/-- A slot of the reset hold that a run writes reads as the zero code (R64, R84, R86). -/
theorem State.CycleInv.refill_readSlot_zero (inv : s.CycleInv)
    (hp : s.phase = .streaming ∨ s.phase = .resettingHold) {k : Nat} (hlo : s.produced ≤ k)
    (hhi : k < s.refill.produced) (hdata : 8 * s.cfg.totalBytes ≤ k) :
    s.refill.readSlot (BitVec.ofNat 7 k) = Config.zeroCode := by
  rw [inv.slot_from_wr hlo]
  rcases hp with hp | hp
  · obtain ⟨hpos, hle, hprod⟩ := inv.streamingCount hp
    have run := s.refill_stream_run hp hpos
    have hprod' := run.produced
    have hbytes : s.bytesFor s.avail = min s.remBytes.toNat (s.avail / 8) := rfl
    have hk : k - s.produced = 8 * s.bytesFor s.avail + (k - s.produced - 8 * s.bytesFor s.avail) := by omega
    rw [hk]
    exact run.readSlot_zero (by omega)
  · obtain ⟨-, hpos, -, -⟩ := inv.holdCount hp
    have run := s.refill_hold_run hp hpos
    have hprod' := run.produced
    have hav := s.avail_lt
    exact run.readSlot_zero (by omega) (by omega)

/-- A run writes data slots in Streaming only, and slot `k` of the cycle reads as its bit of source byte `k / 8` of the
cycle (R63, R82). -/
theorem State.CycleInv.refill_readSlot_data (inv : s.CycleInv)
    (hp : s.phase = .streaming ∨ s.phase = .resettingHold) {k : Nat} (hlo : s.produced ≤ k)
    (hhi : k < s.refill.produced) (hdata : k < 8 * s.cfg.totalBytes) :
    s.phase = .streaming ∧
      s.refill.readSlot (BitVec.ofNat 7 k) =
        codeOfBit s.cfg ((Memory.read s.mem (s.sourceBase.toNat + k / 8)).getLsbD (7 - k % 8)) := by
  rcases hp with hp | hp
  · obtain ⟨hpos, hle, hprod⟩ := inv.streamingCount hp
    obtain ⟨hbase, hfit⟩ := inv.sourceRegion hp
    have run := s.refill_stream_run hp hpos
    have hprod' := run.produced
    have hzeros := s.zerosFor_eq_ite s.avail
    have hslot := run.readSlot_data (j := k - s.produced) (by split at hzeros <;> omega)
    simp only [State.sourceBase] at hbase hfit ⊢
    have hbyte : s.srcPtr.toNat + (k - s.produced) / 8 =
        ((s.srcPtr.toNat : Int) - (s.cfg.totalBytes - s.remBytes.toNat)).toNat + k / 8 := by omega
    have hbit : (k - s.produced) % 8 = k % 8 := by omega
    rw [s.readByte_add (by omega), hbyte, hbit] at hslot
    exact ⟨hp, (inv.slot_from_wr hlo) ▸ hslot⟩
  · obtain ⟨-, -, -, hprod⟩ := inv.holdCount hp
    omega

/-- A run that ends in Streaming began there, and leaves the first byte of the cycle where it was (R14, R20). -/
theorem State.CycleInv.refill_stays_streaming (inv : s.CycleInv) (hstay : s.refill.phase = .streaming) :
    s.phase = .streaming ∧ s.refill.sourceBase = s.sourceBase := by
  have hs : s.phase = .streaming := by
    rcases s.refill_phase_cases with h | ⟨h, -⟩ | ⟨-, h⟩
    · exact h.symm.trans hstay
    · exact h
    · cases hstay.symm.trans h
  obtain ⟨hpos, hfit⟩ := inv.bytesLeft hs
  exact ⟨hs, State.refill_sourceBase hs hpos hfit hstay⟩

@[simp] theorem State.refill_underrun (s : State) : s.refill.underrun = s.underrun := by
  simp [State.underrun, State.faulted]

/-- A Refill run keeps the invariants (R171). -/
theorem State.CycleInv.refill (inv : s.CycleInv) (hp : s.phase = .streaming ∨ s.phase = .resettingHold) :
    s.refill.CycleInv := by
  obtain ⟨n, hn, run⟩ := s.refill_step
  have hprod := run.produced
  have hproducing : s.phase ≠ .idle := by rcases hp with h | h <;> simp [h]
  have htotal := totalSlots_eq s.refill.cfg
  obtain ⟨hrun, hstream, hhold, hdrain⟩ := inv.refill_progress hp
  have hahead (hu : s.underrun = false) :
      s.consumed ≤ s.refill.produced ∧ s.refill.produced ≤ s.consumed + 127 := by
    have hav := State.avail_of_cycleInv inv hu
    obtain ⟨hlo, hhi⟩ := inv.ahead hu
    simp only [Config.cap] at hhi
    omega
  have hmost : s.refill.produced ≤ s.refill.cfg.totalSlots := by
    simp only [Config.resetBits] at htotal
    cases hphase : s.refill.phase with
    | idle => exact absurd hphase hrun
    | streaming => have := hstream hphase; omega
    | resettingHold => have := hhold hphase; omega
    | draining => have := hdrain hphase; omega
  constructor
  case idleAtRest => exact fun h => absurd h hrun
  case doneStopped => simpa using inv.doneStopped
  case engineCount => simpa using inv.engineCount
  case writeCursor =>
    have hwr := run.wr
    have hcursor := inv.writeCursor
    simp only [Config.cap] at hcursor ⊢
    bv_omega
  case readCursor => simpa using inv.readCursor
  case streamingCount => exact fun h => (hstream h).1
  case holdCount => exact fun h => (hhold h).1
  case drainingCount => rw [htotal]; exact hdrain
  case ahead => simpa using hahead
  case bounded => exact ⟨by simpa using inv.bounded.1, hmost⟩
  case sourceRegion =>
    intro hstay
    obtain ⟨hs, hbase⟩ := inv.refill_stays_streaming hstay
    rw [hbase, State.refill_cfg]
    exact inv.sourceRegion hs
  case atRest => exact fun _ h => absurd h hrun
  case running => simpa using fun _ => inv.running hproducing
  case doneRaised => simpa using inv.doneRaised
  case ledlessIdle => exact fun h => absurd (inv.ledlessIdle (s.refill_cfg ▸ h)) hproducing
  case zeroTail =>
    simp only [State.refill_underrun, State.refill_consumed, State.refill_cfg]
    intro hu k hlo hhi hdata
    by_cases hold : k < s.produced
    · rw [inv.refill_readSlot_unread hu hlo hold]
      exact inv.zeroTail hu k hlo hold hdata
    · exact inv.refill_readSlot_zero hp (Nat.not_lt.mp hold) hhi hdata
  case lowTail => simpa using inv.lowTail

end refill

/-! ## The prefill of START -/

/-- The Engine triggered with the slots of the cycle (R119 S6, S7). -/
def State.triggerEngine (s : State) : State := { s with engRem := BitVec.ofNat 32 s.cfg.totalSlots, engEn := true }

section triggerEngine

variable (s : State)

@[simp] theorem State.triggerEngine_phase : s.triggerEngine.phase = s.phase := rfl
@[simp] theorem State.triggerEngine_avail : s.triggerEngine.avail = s.avail := rfl

theorem State.unpackByte_triggerEngine : s.triggerEngine.unpackByte = s.unpackByte.triggerEngine := by
  rw [State.unpackByte_eq, State.unpackByte_eq, apply_ite State.triggerEngine]
  rfl

theorem State.putZero_triggerEngine : s.triggerEngine.putZero = s.putZero.triggerEngine := by
  rw [State.putZero_eq, State.putZero_eq, apply_ite State.triggerEngine]
  rfl

theorem streamLoop_triggerEngine (bound a : Nat) :
    streamLoop bound a s.triggerEngine = ((streamLoop bound a s).1, (streamLoop bound a s).2.triggerEngine) := by
  induction bound generalizing a s with
  | zero => rfl
  | succ bound ih =>
    simp only [streamLoop, State.triggerEngine_phase, State.unpackByte_triggerEngine, ih]
    split <;> rfl

theorem holdLoop_triggerEngine (a : Nat) : holdLoop a s.triggerEngine = (holdLoop a s).triggerEngine := by
  induction a generalizing s with
  | zero => rfl
  | succ a ih =>
    simp only [holdLoop, State.triggerEngine_phase, State.putZero_triggerEngine, ih]
    split <;> rfl

/-- A Refill run neither reads nor writes the Engine's elements, so the trigger may come before it (R81, R119). -/
theorem State.refill_triggerEngine : s.triggerEngine.refill = s.refill.triggerEngine := by
  simp only [State.refill, State.triggerEngine_avail, streamLoop_triggerEngine, holdLoop_triggerEngine]

end triggerEngine

/-- The cycle of a START with its prefill put off (R119 without S5). -/
def State.armedCycle (s : State) (src : Addr) : State := (s.armProducer src).triggerEngine

/-- The start sequence is the Refill run of the armed cycle, but for REFILL_EN and the Host's operation (R119). -/
theorem State.startCycle_eq_refill (s : State) (src : Addr) :
    s.startCycle src = { (s.armedCycle src).refill with refillEn := true, outstanding := none } := by
  rw [State.armedCycle, State.refill_triggerEngine]
  rfl

section armedCycle

variable {s : State} {src : Addr}

theorem State.armedCycle_engRem_toNat (s : State) (src : Addr) :
    (s.armedCycle src).engRem.toNat = s.cfg.totalSlots := Nat.mod_eq_of_lt (totalSlots_lt s.cfg)

theorem State.armedCycle_remBytes_toNat (s : State) (src : Addr) :
    (s.armedCycle src).remBytes.toNat = s.cfg.totalBytes := Nat.mod_eq_of_lt (totalBytes_lt s.cfg)

/-- Before its prefill the first byte of the cycle is at the operand of START (R14). -/
theorem State.armedCycle_sourceBase (s : State) (src : Addr) : (s.armedCycle src).sourceBase = src.toNat := by
  rw [State.sourceBase, State.armedCycle_remBytes_toNat]
  exact (congrArg _ (Int.sub_self _)).trans (Int.sub_zero _)

/-- A cycle that START arms meets the invariants before its prefill (R171). -/
theorem State.CycleInv.armedCycle (inv : s.CycleInv) (hp : s.phase = .idle) (hn : s.cfg.n ≠ 0)
    (hw : s.sourceWraps src = false) : (s.armedCycle src).CycleInv := by
  have hdone : ¬ s.donePend = true := by simp [(inv.idleAtRest hp).2]
  have hbytes := s.armedCycle_remBytes_toNat src
  have hslots := s.armedCycle_engRem_toNat src
  have hpos : 1 ≤ s.cfg.totalBytes := by
    have : s.cfg.n.toNat ≠ 0 := fun e => hn (BitVec.eq_of_toNat_eq e)
    simp only [Config.totalBytes, Config.bytesPerLed]
    omega
  have htotal := totalSlots_eq s.cfg
  have hfit : src.toNat + s.cfg.totalBytes ≤ 2 ^ 32 := by simpa [State.sourceWraps] using hw
  constructor
  case idleAtRest | holdCount | drainingCount => exact nofun
  case doneStopped => exact fun h => absurd h hdone
  case engineCount => exact fun _ => hslots
  case writeCursor | readCursor => rfl
  case streamingCount =>
    rw [hbytes]
    exact fun _ => ⟨hpos, le_rfl, (congrArg (8 * ·) (Nat.sub_self _)).symm⟩
  case ahead => exact fun _ => ⟨le_rfl, Nat.zero_le _⟩
  case bounded => exact ⟨Nat.zero_le _, Nat.zero_le _⟩
  case sourceRegion =>
    rw [State.armedCycle_sourceBase]
    exact fun _ => ⟨Int.natCast_nonneg _, by exact_mod_cast hfit⟩
  case atRest => exact fun _ => nofun
  case running => exact fun _ => rfl
  case doneRaised =>
    intro _ hzero
    have hnone : 0 = s.cfg.totalSlots := by simpa [hzero] using hslots
    simp only [Config.resetBits] at htotal
    omega
  case ledlessIdle => exact fun h => absurd h hn
  case zeroTail => exact fun _ k _ hk => absurd hk (Nat.not_lt_zero k)
  case lowTail => exact fun _ _ h => absurd h (Nat.not_lt_zero _)

/-- The start sequence establishes the invariants of a running cycle (R119, R171). -/
theorem State.CycleInv.startCycle (inv : s.CycleInv) (hp : s.phase = .idle) (hn : s.cfg.n ≠ 0)
    (hw : s.sourceWraps src = false) : (s.startCycle src).CycleInv := by
  rw [State.startCycle_eq_refill]
  exact ((inv.armedCycle hp hn hw).refill (.inl rfl)).congr rfl id

end armedCycle

end Sys2Proof.Machine
end

section
/-! The invariants of the cycle (R171): BEGIN establishes them and every operation keeps them. -/

namespace Sys2Proof.Machine

/-- BEGIN establishes the invariants from any power-on state (R161). -/
theorem State.initialise_cycleInv (s : State) : s.initialise.CycleInv := by
  constructor <;> simp [Config.zeroCode]

/-! ## UNDERRUN -/

theorem State.underrun_eq_false_iff {s : State} : s.underrun = false ↔ ∀ m ∈ s.fault, m.name ≠ .underrun := by
  simp [State.underrun, State.faulted]

/-- UNDERRUN is sticky: without it after an operation, it was not there before (R29). -/
theorem Stepped.underrun_before {i : Instr} {s t : State} (h : Stepped s i t) (hu : t.underrun = false) :
    s.underrun = false := by
  rw [State.underrun_eq_false_iff] at hu ⊢
  intro m hm
  rcases h.fault_eq with e | ⟨m', e⟩
  · exact hu m (e ▸ hm)
  · exact hu m (e ▸ mem_addMark.mpr (.inl hm))

/-! ## CONSUME -/

section consume

variable {s : State}

/-- The slot at RD is the next slot of the cycle (R171 item 4). -/
theorem State.CycleInv.rd_eq (inv : s.CycleInv) : s.rd = BitVec.ofNat 7 s.consumed := by
  have hrd := inv.readCursor
  simp only [Config.cap] at hrd
  bv_omega

/-- A CONSUME that leaves UNDERRUN out of FAULT read a slot written in this cycle (R105). -/
theorem Stepped.consumed_ne_produced {t : State} (h : Stepped s .consume t) (hu : t.underrun = false) :
    s.consumed ≠ s.produced := by
  cases h with
  | consumeMoves _ hwritten => exact hwritten
  | consumeUnderruns =>
    have hmark : (s.raise (.underrun s.rd)).takeSlot.checkDone.underrun = true := by
      rw [State.checkDone_frame]
      exact s.underrun_raise s.rd
    cases hmark.symm.trans hu

theorem exec_consume_enabled {t : State} (h : exec .consume s = .next t) :
    s.begun = true ∧ s.engEn = true ∧ 0 < s.engRem.toNat := by
  obtain ⟨-, consumeIff, -⟩ := eventsStepExactlyWhenEnabled s
  exact consumeIff.mp ⟨t, h⟩

/-- A CONSUME keeps the invariants; without UNDERRUN the slot it reads had been written (R102 to R105, R171). -/
theorem State.CycleInv.consume {t : State} (inv : s.CycleInv) (h : exec .consume s = .next t) : t.CycleInv := by
  obtain ⟨hb, he, hr⟩ := exec_consume_enabled h
  have hfree (hu : t.underrun = false) : s.underrun = false ∧ s.consumed + 1 ≤ s.produced := by
    have hne := (exec_stepped h).consumed_ne_produced hu
    have hbefore := (exec_stepped h).underrun_before hu
    have hle := (inv.ahead hbefore).1
    exact ⟨hbefore, by omega⟩
  have hcount := inv.engineCount he
  have hrunning : s.phase ≠ .idle := fun hp => by simp [(inv.idleAtRest hp).1] at he
  have hnotDone : s.donePend = false := by
    by_contra hd
    simp [(inv.doneStopped (by simpa using hd)).2] at hr
  rw [consumeMovesOneSlot s hb he hr] at h
  cases h
  constructor
  case idleAtRest => exact fun hp => absurd hp hrunning
  case doneStopped =>
    intro hd
    have hlast : s.engRem.toNat = 1 := by simpa [hnotDone] using hd
    exact ⟨he, by simp [hlast]⟩
  case engineCount =>
    intro _
    have hrem : (BitVec.ofNat 32 (s.engRem.toNat - 1)).toNat = s.engRem.toNat - 1 := by bv_omega
    dsimp only
    omega
  case writeCursor => exact inv.writeCursor
  case readCursor =>
    have hrd := inv.readCursor
    simp only [Config.cap, BitVec.toNat_ofNat] at hrd ⊢
    omega
  case streamingCount => exact inv.streamingCount
  case holdCount => exact inv.holdCount
  case drainingCount => exact inv.drainingCount
  case ahead =>
    intro hu
    obtain ⟨hbefore, hlt⟩ := hfree hu
    have hhi := (inv.ahead hbefore).2
    dsimp only
    omega
  case bounded => exact ⟨by dsimp only; omega, inv.bounded.2⟩
  case sourceRegion => exact inv.sourceRegion
  case atRest => exact fun _ hp => absurd hp hrunning
  case running => exact inv.running
  case doneRaised =>
    intro _ hzero
    have hlast : s.engRem.toNat = 1 := by
      dsimp only at hzero
      bv_omega
    exact if_pos hlast
  case ledlessIdle => exact inv.ledlessIdle
  case zeroTail => exact fun hu k hlo => inv.zeroTail (hfree hu).1 k (Nat.le_of_succ_le hlo)
  case lowTail =>
    intro hu _ htail
    obtain ⟨hbefore, hlt⟩ := hfree hu
    dsimp only at htail ⊢
    rw [inv.rd_eq]
    exact inv.zeroTail hbefore _ le_rfl hlt (Nat.le_of_lt_succ htail)

end consume

/-! ## COMPLETE -/

/-- COMPLETE keeps the invariants: without UNDERRUN it finds Draining, with every slot of the cycle produced and
consumed and the line low (R106, R171). -/
theorem State.CycleInv.completeWork {s : State} (inv : s.CycleInv) (hd : s.donePend = true) :
    s.completeWork.CycleInv := by
  constructor
  case idleAtRest => exact fun _ => ⟨rfl, rfl⟩
  case doneStopped | engineCount | streamingCount | holdCount | drainingCount | sourceRegion | doneRaised =>
    exact nofun
  case lowTail => exact fun _ => nofun
  case running => exact fun h => absurd rfl h
  case ledlessIdle => exact fun _ => rfl
  case writeCursor => exact inv.writeCursor
  case readCursor => exact inv.readCursor
  case ahead => exact inv.ahead
  case bounded => exact inv.bounded
  case zeroTail => exact inv.zeroTail
  case atRest =>
    intro hu _
    have hconsumed := inv.consumed_of_donePend hd
    obtain ⟨hbytes, hreset, hproduced⟩ := inv.drainingCount (inv.draining_of_donePend hu hd)
    have hlow : 8 * s.cfg.totalBytes < s.consumed := by
      have htotal := totalSlots_eq s.cfg
      simp only [Config.resetBits] at htotal
      omega
    exact ⟨.inr ⟨hproduced, hconsumed⟩, hbytes, hreset, inv.lowTail hu (inv.doneStopped hd).1 hlow⟩

/-! ## Every operation -/

/-- Every operation of a begun block keeps the invariants (R171). -/
theorem State.CycleInv.exec {i : Instr} {s t : State} (inv : s.CycleInv) (hb : s.begun = true)
    (h : exec i s = .next t) : t.CycleInv := by
  have hbefore := (exec_stepped h).underrun_before
  cases exec_stepped h with
  | beginAgain | startNoLeds | startWraps | startHeld | busyAnswers | rdstateAnswers | pokeMutates | pokeWrites
  | tickDisarms => exact inv.congr rfl hbefore
  | beginFirst hnot | startEarly _ hnot | busyEarly hnot | rdstateEarly hnot | pokeEarly _ _ hnot => simp [hb] at hnot
  | startRuns _ _ hn hw hp => exact inv.startCycle hp hn hw
  | tickRefills _ hp => exact inv.refill hp
  | consumeUnderruns | consumeMoves => exact inv.consume h
  | completes he => exact inv.completeWork (State.completeEnabled_iff.mp he).2

/-- BEGUN is set by BEGIN only, which establishes the invariants; every later operation keeps them (R161, R171). -/
theorem State.Inv.exec {i : Instr} {s t : State} (inv : s.Inv) (h : exec i s = .next t) : t.Inv := by
  intro hb
  by_cases hs : s.begun = true
  · exact (inv hs).exec hs h
  · obtain ⟨-, -, -, -, -, -, writesBegun, -⟩ := eachElementHasItsWriters i s t h
    obtain rfl : i = .begin := writesBegun fun same => hs (same.symm.trans hb)
    cases exec_stepped h with
    | beginFirst => exact s.initialise_cycleInv
    | beginAgain hagain => exact absurd hagain hs

/-- Settles O40: a step runs an operation on the state without its word, of which the invariants do not speak. -/
theorem cycleInvariantIsKept : Obligations.CycleInvariantIsKept := by
  intro s t h inv
  obtain ⟨_, rest, _, _, _, _, hexec⟩ := step_next h
  have taken : State.Inv { s with schedule := rest } := fun hb => (inv hb).congr rfl id
  exact taken.exec hexec

/-- Settles O41: before BEGIN nothing is claimed, and BEGIN establishes the invariants. -/
theorem resetMeetsTheInvariant : Obligations.ResetMeetsTheInvariant :=
  ⟨nofun, State.reset_memory_wf, List.nodup_nil, fun s hb =>
    ⟨s.initialise, exec_of_stepped (.beginFirst hb), rfl, s.initialise_cycleInv⟩⟩

/-- Settles O9: no event is enabled before BEGIN, and BEGIN writes every element that power-on leaves unspecified. -/
theorem powerOnDefinesOnlyBegun : Obligations.PowerOnDefinesOnlyBegun := by
  refine ⟨⟨rfl, rfl, rfl⟩, fun s hb => ?_, fun s u hs hu hcfg hring hmem hfault hresult hfree hout hsched => ?_⟩
  · obtain ⟨-, -, -, noTick, noConsume, noComplete, -⟩ := eventsStepExactlyWhenEnabled s
    exact ⟨noTick (by simp [hb]), noConsume (by simp [hb]), noComplete (by simp [hb])⟩
  · rw [exec_of_stepped (.beginFirst hu), exec_of_stepped (.beginFirst hs)]
    simp only [State.initialise, hcfg, hring, hmem, hfault, hresult, hfree, hout, hsched]

end Sys2Proof.Machine
end

section
/-! The unread slots of a cycle (R35, R166): what a Refill run leaves ahead of the Engine, and why a paced run has no
underrun. -/

namespace Sys2Proof.Machine

/-- What the last Refill run left ahead of the Engine, less the `gap` CONSUMEs since then: at least 120 slots in
Streaming, 127 in ResettingHold (R166). -/
def State.Ahead (gap : Nat) (s : State) : Prop :=
  (s.phase = .streaming → s.consumed + 120 ≤ s.produced + gap) ∧
    (s.phase = .resettingHold → s.produced + gap = s.consumed + 127)

section Ahead

variable {s t : State} {i : Instr} {gap : Nat}

theorem State.ahead_of_not_producing (gap : Nat) (h : s.phase.producing = false) : s.Ahead gap := by
  constructor <;> intro hp <;> simp [hp, Phase.producing] at h

theorem not_producing_of_rest {p : Phase} (h : p = .idle ∨ p = .draining) : p.producing = false := by
  rcases h with rfl | rfl <;> rfl

theorem producing_of_refills {p : Phase} (h : p = .streaming ∨ p = .resettingHold) : p.producing = true := by
  rcases h with rfl | rfl <;> rfl

/-- A Refill run fills the 127 slots it may use, in Streaming but for the last `AVAIL mod 8` (R82, R84). -/
theorem State.CycleInv.refill_ahead (inv : s.CycleInv) (hu : s.underrun = false)
    (hp : s.phase = .streaming ∨ s.phase = .resettingHold) : s.refill.Ahead 0 := by
  have hav := State.avail_of_cycleInv inv hu
  obtain ⟨hlo, hhi⟩ := inv.ahead hu
  simp only [Config.cap] at hhi
  obtain ⟨-, hstream, hhold, -⟩ := inv.refill_progress hp
  rw [State.Ahead, State.refill_consumed]
  exact ⟨fun h => by have := (hstream h).2; omega, fun h => by have := (hhold h).2; omega⟩

/-- The prefill of START is a Refill run (R119). -/
theorem State.CycleInv.startCycle_ahead {src : Addr} (inv : s.CycleInv) (hu : s.underrun = false)
    (hp : s.phase = .idle) (hn : s.cfg.n ≠ 0) (hw : s.sourceWraps src = false) : (s.startCycle src).Ahead 0 := by
  rw [State.startCycle_eq_refill]
  exact (inv.armedCycle hp hn hw).refill_ahead hu (.inl rfl)

/-- Settles O42: a TICK or a START that ends in Streaming or ResettingHold has run Refill. -/
theorem refillLeavesRingAhead : Obligations.RefillLeavesRingAhead := by
  intro i s t hb inv hu h hi
  suffices t.Ahead 0 from this
  rcases hi with rfl | ⟨⟨src, rfl⟩, hidle⟩
  · cases exec_stepped h with
    | tickDisarms _ hrest => exact State.ahead_of_not_producing 0 (not_producing_of_rest hrest)
    | tickRefills _ hp => exact inv.refill_ahead hu hp
  · cases exec_stepped h with
    | startRuns _ _ hn hw _ => exact inv.startCycle_ahead hu hidle hn hw
    | _ => exact State.ahead_of_not_producing 0 (not_producing_of_rest (.inl hidle))

/-- Each operation keeps the account of the slots ahead with the CONSUMEs counted by R166. -/
theorem State.Ahead.after_exec (hahead : s.Ahead gap) (inv : s.CycleInv) (hu : s.underrun = false) (hb : s.begun = true)
    (h : exec i s = .next t) : t.Ahead (s.gapAfter gap i) := by
  cases i with
  | begin =>
    rw [(exec_stepped h).begin_again hb]
    exact hahead
  | start src =>
    by_cases hidle : s.phase = .idle
    · rw [State.gapAfter, if_pos hidle]
      exact refillLeavesRingAhead _ s t hb inv hu h (.inr ⟨⟨src, rfl⟩, hidle⟩)
    · rw [State.gapAfter, if_neg hidle]
      cases exec_stepped h with
      | startRuns _ _ _ _ hp => exact absurd hp hidle
      | _ => exact hahead
  | tick =>
    cases exec_stepped h with
    | tickDisarms _ hrest => exact State.ahead_of_not_producing _ (not_producing_of_rest hrest)
    | tickRefills _ hp =>
      rw [State.gapAfter, if_pos (producing_of_refills hp)]
      exact inv.refill_ahead hu hp
  | consume =>
    obtain ⟨_, he, hr⟩ := exec_consume_enabled h
    rw [consumeMovesOneSlot s hb he hr] at h
    cases h
    rw [State.gapAfter]
    split
    · obtain ⟨hstream, hhold⟩ := hahead
      exact ⟨fun hp => by have := hstream hp; dsimp only; omega, fun hp => by have := hhold hp; dsimp only; omega⟩
    · next hrest => exact State.ahead_of_not_producing _ (by simpa using hrest)
  | complete =>
    cases exec_stepped h with
    | completes => exact State.ahead_of_not_producing _ rfl
  | busy | rdstate | poke =>
    rw [(exec_stepped h).eq_takeWritten]
    exact hahead

/-- Only a CONSUME that finds no unread slot raises UNDERRUN (R105, R136). -/
theorem exec_raises_underrun (h : exec i s = .next t) (hu : s.underrun = false) (ht : t.underrun = true) :
    i = .consume ∧ s.consumed = s.produced := by
  have raised : s.underrun = true ∨ i = .consume ∧ s.consumed = s.produced := by
    cases exec_stepped h with
    | consumeUnderruns _ hunwritten => exact .inr ⟨rfl, hunwritten⟩
    | beginAgain | startEarly | startWraps | busyEarly | rdstateEarly | pokeEarly | pokeMutates =>
      exact .inl ((s.underrun_raise_other _ (by simp [FaultMark.name])).symm.trans ht)
    | startRuns => exact .inl (by simpa [State.underrun, State.faulted] using ht)
    | tickRefills => exact .inl (s.refill_underrun ▸ ht)
    | consumeMoves => exact .inl (by simpa [State.underrun, State.faulted] using ht)
    | _ => exact .inl ht
  exact raised.resolve_left (by simp [hu])

/-- While at most 120 CONSUMEs have followed the last Refill run, every CONSUME finds an unread slot: in Streaming and
ResettingHold by the account, in Draining because every slot has been produced (R166). -/
theorem State.Ahead.no_underrun (hahead : s.Ahead gap) (inv : s.CycleInv) (hu : s.underrun = false)
    (h : exec i s = .next t) (hgap : s.gapAfter gap i ≤ 120) : t.underrun = false := by
  by_contra hraised
  obtain ⟨rfl, hempty⟩ := exec_raises_underrun h hu (by simpa using hraised)
  obtain ⟨_, he, hr⟩ := exec_consume_enabled h
  have hcount := inv.engineCount he
  obtain ⟨hstream, hhold⟩ := hahead
  cases hp : s.phase with
  | idle => simp [(inv.idleAtRest hp).1] at he
  | streaming =>
    have := hstream hp
    simp only [State.gapAfter, hp, Phase.producing, if_true] at hgap
    omega
  | resettingHold =>
    have := hhold hp
    simp only [State.gapAfter, hp, Phase.producing, if_true] at hgap
    omega
  | draining =>
    obtain ⟨-, -, hproduced⟩ := inv.drainingCount hp
    omega

end Ahead

/-- A paced run from any point of a cycle has no underrun (R166). -/
theorem paced_no_underrun {bound gap : Nat} {ops : List Instr} {s t : State} (hbound : bound ≤ 120)
    (hb : s.begun = true) (inv : s.CycleInv) (hu : s.underrun = false) (hahead : s.Ahead gap)
    (hpaced : paced bound gap s ops = true) (h : execAll ops s = .next t) : t.underrun = false := by
  induction ops generalizing s gap with
  | nil => cases h; exact hu
  | cons i rest ih =>
    simp only [paced, execAll, Bool.and_eq_true, decide_eq_true_eq] at hpaced h
    obtain ⟨hgap, hrest⟩ := hpaced
    cases hi : exec i s with
    | next u =>
      rw [hi] at hrest h
      exact ih (exec_begun hi hb) (inv.exec hb hi) (hahead.no_underrun inv hu hi (hgap.trans hbound))
        (hahead.after_exec inv hu hb hi) hrest h
    | fault => simp [hi] at h
    | refused => simp [hi] at h

/-- Settles O43: at rest no Refill run is due, and each operation of the run keeps the account. -/
theorem pacedRunNeverUnderruns : Obligations.PacedRunNeverUnderruns := by
  intro bound ops s t hbound hb inv hu hidle hpaced h
  have atRest : s.Ahead 0 := State.ahead_of_not_producing 0 (not_producing_of_rest (.inl hidle))
  exact paced_no_underrun hbound hb inv hu atRest hpaced h

end Sys2Proof.Machine
end

section
/-! The end of a cycle (R172): the Engine's events alone bring the block back to Idle. -/

namespace Sys2Proof.Machine

/-- The CONSUMEs that are left and a COMPLETE, from any point of a cycle (R172). -/
theorem execAll_consumes_complete {n : Nat} {s : State} (hn : s.engRem.toNat = n) (hb : s.begun = true)
    (inv : s.CycleInv) (hp : s.phase ≠ .idle) :
    ∃ t, execAll (List.replicate n .consume ++ [.complete]) s = .next t ∧
      t.phase = .idle ∧ t.engEn = false ∧ t.donePend = false ∧ t.engRem = 0 := by
  have he := inv.running hp
  induction n generalizing s with
  | zero =>
    have hzero : s.engRem = 0 := BitVec.eq_of_toNat_eq hn
    have hdone : exec .complete s = .next s.completeWork :=
      completeReturnsToIdle s hb (inv.doneRaised he hzero)
    exact ⟨s.completeWork, by simp only [List.replicate_zero, List.nil_append, execAll, hdone], rfl, rfl, rfl, hzero⟩
  | succ n ih =>
    have hconsume := consumeMovesOneSlot s hb he (by omega)
    obtain ⟨t, hrun, hend⟩ := ih (by simp only [BitVec.toNat_ofNat]; omega) (exec_begun hconsume hb)
      (inv.exec hb hconsume) hp he
    exact ⟨t, by simpa only [List.replicate_succ, List.cons_append, execAll, hconsume] using hrun, hend⟩

/-- Settles O44: by induction on the slots the Engine has left. -/
theorem cycleEndsWhenEventsOccur : Obligations.CycleEndsWhenEventsOccur := fun _ hb inv hp =>
  execAll_consumes_complete rfl hb inv hp

end Sys2Proof.Machine
end

section
/-! What a cycle emits (R175): in a run without marks the codes taken and the unread slots are those of the frame. -/

namespace Sys2Proof.Machine

/-- In the cycle that a START at `src` began in `s₀`, the slots emitted and the unread ones are the codes of the frame,
and in Streaming the source bytes are still those of `s₀` (R64, R175). -/
structure State.Emits (s₀ : State) (src : Addr) (s : State) : Prop where
  cfg : s.cfg = s₀.cfg
  emitted : s.out = s₀.out ++ (s₀.frame src).take s.consumed
  unread : ∀ k, s.consumed ≤ k → k < s.produced → (s₀.frame src)[k]? = some (s.readSlot (BitVec.ofNat 7 k))
  base : s.phase = .streaming → s.sourceBase = src.toNat
  source : s.phase = .streaming → ∀ k < s₀.cfg.totalBytes,
    Memory.read s.mem (src.toNat + k) = Memory.read s₀.mem (src.toNat + k)

section Emits

variable {s₀ s t : State} {src : Addr}

/-- A cycle whose prefill is put off has emitted nothing and has no unread slot. -/
theorem State.armedCycle_emits (s : State) (src : Addr) : State.Emits s src (s.armedCycle src) where
  cfg := rfl
  emitted := (List.append_nil _).symm
  unread k _ hk := absurd hk (Nat.not_lt_zero k)
  base _ := s.armedCycle_sourceBase src
  source _ _ _ := rfl

/-- The slots a Refill run adds are the next codes of the frame (R63, R64, R81). -/
theorem State.Emits.refill (emits : State.Emits s₀ src s) (inv : s.CycleInv) (hu : s.underrun = false)
    (hp : s.phase = .streaming ∨ s.phase = .resettingHold) : State.Emits s₀ src s.refill := by
  obtain ⟨hcfg, hout, hunread, hbase, hsource⟩ := emits
  constructor
  case cfg => rw [State.refill_cfg, hcfg]
  case emitted => rw [State.refill_out, State.refill_consumed, hout]
  case base =>
    intro hstay
    obtain ⟨hs, hkept⟩ := inv.refill_stays_streaming hstay
    rw [hkept, hbase hs]
  case source =>
    intro hstay
    rw [State.refill_mem]
    exact hsource (inv.refill_stays_streaming hstay).1
  case unread =>
    intro k hlo hhi
    rw [State.refill_consumed] at hlo
    by_cases hold : k < s.produced
    · rw [hunread k hlo hold, inv.refill_readSlot_unread hu hlo hold]
    · have hnew := Nat.not_lt.mp hold
      obtain ⟨-, frame_data, frame_zero⟩ := frameIsMsbFirst s₀ src
      have hbytes := eight_mul_totalBytes s₀.cfg
      by_cases hdata : k < 8 * s₀.cfg.totalBytes
      · obtain ⟨hs, hslot⟩ := inv.refill_readSlot_data hp hnew hhi (hcfg ▸ hdata)
        rw [hbase hs, Int.toNat_natCast, hsource hs _ (by omega), hcfg] at hslot
        rw [frame_data k (by omega), hslot, codeOfBit]
      · have hslots : s.refill.produced ≤ s.cfg.totalSlots := s.refill_cfg ▸ (inv.refill hp).bounded.2
        rw [hcfg, totalSlots_eq, Config.resetBits] at hslots
        rw [frame_zero k (by omega) (by omega), inv.refill_readSlot_zero hp hnew hhi (by rw [hcfg]; omega)]
        rfl

/-- A CONSUME without UNDERRUN emits the next code of the frame (R102). -/
theorem State.Emits.consume (emits : State.Emits s₀ src s) (inv : s.CycleInv) (h : exec .consume s = .next t)
    (hwritten : s.consumed < s.produced) : State.Emits s₀ src t := by
  obtain ⟨hb, he, hr⟩ := exec_consume_enabled h
  rw [consumeMovesOneSlot s hb he hr] at h
  cases h
  refine ⟨emits.cfg, ?_, fun k hlo => emits.unread k (Nat.le_of_succ_le hlo), emits.base, emits.source⟩
  dsimp only
  rw [emits.emitted, List.append_assoc, List.take_add_one, emits.unread _ le_rfl hwritten, inv.rd_eq]
  rfl

/-- A POKE outside the region of the cycle leaves its bytes alone (R123). -/
theorem State.Emits.writeByte (emits : State.Emits s₀ src s) (hwf : Memory.wf s.mem = true) {addr : Addr} {data : Byte}
    (hout : ¬ (s.phase = .streaming ∧ s.inSource addr = true)) : State.Emits s₀ src (s.writeByte addr data) := by
  refine ⟨emits.cfg, emits.emitted, emits.unread, emits.base, fun hp k hk => ?_⟩
  have hother : src.toNat + k ≠ addr.toNat := by
    intro hin
    refine hout ⟨hp, decide_eq_true ?_⟩
    rw [emits.base hp, emits.cfg]
    omega
  rw [← emits.source hp k hk]
  exact Memory.read_write_other hwf hother

end Emits

/-! ## Runs without marks -/

theorem State.raise_fault_ne_nil (s : State) (m : FaultMark) : (s.raise m).fault ≠ [] :=
  List.ne_nil_of_mem (mem_addMark.mpr (.inr rfl))

theorem State.underrun_of_fault_nil {s : State} (h : s.fault = []) : s.underrun = false := by
  simp [State.underrun, State.faulted, h]

/-- FAULT is sticky: empty after an operation, it was empty before (R29). -/
theorem exec_fault_before {i : Instr} {s t : State} (h : exec i s = .next t) (hf : t.fault = []) : s.fault = [] := by
  rcases (exec_stepped h).fault_eq with e | ⟨m, e⟩
  · exact e.symm.trans hf
  · exact absurd (e.symm.trans hf) (s.raise_fault_ne_nil m)

/-- A run of a list passes the state its first part leads to. -/
theorem execAll_append_next {ops rest : List Instr} {s t : State} (h : execAll (ops ++ rest) s = .next t) :
    ∃ u, execAll ops s = .next u ∧ execAll rest u = .next t := by
  induction ops generalizing s with
  | nil => exact ⟨s, rfl, h⟩
  | cons i ops ih =>
    simp only [List.cons_append, execAll] at h ⊢
    cases hi : exec i s with
    | next u =>
      rw [hi] at h
      exact ih h
    | fault => simp [hi] at h
    | refused => simp [hi] at h

theorem execAll_singleton (i : Instr) (s : State) : execAll [i] s = exec i s := by
  simp only [execAll]
  cases exec i s <;> rfl

/-- A point of the cycle that a START at `src` began in `s₀`, before its COMPLETE. -/
structure State.Transmits (s₀ : State) (src : Addr) (s : State) : Prop where
  begun : s.begun = true
  running : s.phase ≠ .idle
  inv : s.CycleInv
  wf : Memory.wf s.mem = true
  emits : State.Emits s₀ src s

section Transmits

variable {s₀ s t : State} {src : Addr} {i : Instr}

/-- Every operation but COMPLETE, when it leaves no mark, goes on with the frame. -/
theorem State.Transmits.emits_after (run : State.Transmits s₀ src s) (hi : i ≠ .complete) (h : exec i s = .next t)
    (hf : t.fault = []) : State.Emits s₀ src t := by
  obtain ⟨hb, hrunning, inv, hwf, emits⟩ := run
  have hu : s.underrun = false := State.underrun_of_fault_nil (exec_fault_before h hf)
  cases exec_stepped h with
  | beginAgain | startWraps | pokeMutates => exact absurd hf (s.raise_fault_ne_nil _)
  | beginFirst hnot | startEarly _ hnot | busyEarly hnot | rdstateEarly hnot | pokeEarly _ _ hnot => simp [hb] at hnot
  | startNoLeds | startHeld | busyAnswers | rdstateAnswers | tickDisarms =>
    exact ⟨emits.cfg, emits.emitted, emits.unread, emits.base, emits.source⟩
  | startRuns _ _ _ _ hidle => exact absurd hidle hrunning
  | pokeWrites _ _ _ hout => exact emits.writeByte hwf hout
  | tickRefills _ hp => exact emits.refill inv hu hp
  | consumeUnderruns | consumeMoves =>
    have hne := (exec_stepped h).consumed_ne_produced (State.underrun_of_fault_nil hf)
    have hle := (inv.ahead hu).1
    exact emits.consume inv h (by omega)
  | completes => exact absurd rfl hi

theorem State.Transmits.after_exec (run : State.Transmits s₀ src s) (hi : i ≠ .complete) (h : exec i s = .next t)
    (hf : t.fault = []) : State.Transmits s₀ src t where
  begun := exec_begun h run.begun
  running ht := hi (exec_enters_idle run.begun h run.running ht)
  inv := run.inv.exec run.begun h
  wf := (exec_stepped h).mem_wf run.wf
  emits := run.emits_after hi h hf

theorem State.startCycle_transmits (hb : s.begun = true) (inv : s.CycleInv) (hwf : Memory.wf s.mem = true)
    (hidle : s.phase = .idle) (hn : s.cfg.n ≠ 0) (hw : s.sourceWraps src = false) (hu : s.underrun = false) :
    State.Transmits s src (s.startCycle src) := by
  have start : Stepped s (.start src) (s.startCycle src) := .startRuns src hb hn hw hidle
  refine ⟨exec_begun (exec_of_stepped start) hb, s.startCycle_phase_ne_idle src, inv.startCycle hidle hn hw,
    start.mem_wf hwf, ?_⟩
  have prefilled := (s.armedCycle_emits src).refill (inv.armedCycle hidle hn hw) hu (.inl rfl)
  rw [State.startCycle_eq_refill]
  exact ⟨prefilled.cfg, prefilled.emitted, prefilled.unread, prefilled.base, prefilled.source⟩

/-- When the Engine is done, the whole frame has been emitted (R175). -/
theorem State.Transmits.out_of_donePend (run : State.Transmits s₀ src s) (hd : s.donePend = true) :
    s.out = s₀.out ++ s₀.frame src := by
  have hlen : (s₀.frame src).length = s.consumed := by
    rw [run.inv.consumed_of_donePend hd, run.emits.cfg]
    exact (frameIsMsbFirst s₀ src).1
  rw [run.emits.emitted, ← hlen, List.take_length]

end Transmits

/-- Settles O46: without a mark the START ran, each operation up to COMPLETE went on with the frame, and COMPLETE found
the Engine done. -/
theorem cycleEmitsFrame : Obligations.CycleEmitsFrame := by
  intro s u t src ops hb inv hwf hidle hn hfit hstart hno hrun hf
  obtain ⟨v, hops, hlast⟩ := execAll_append_next hrun
  have hw : s.sourceWraps src = false := State.sourceWraps_of_le hfit
  obtain rfl : s.startCycle src = u := by
    have hruns := exec_of_stepped (.startRuns src hb hn hw hidle)
    exact Host.Outcome.next.inj (hruns.symm.trans hstart)
  have hcomplete : exec .complete v = .next t := execAll_singleton .complete v ▸ hlast
  have began : (s.startCycle src).fault = [] → State.Transmits s src (s.startCycle src) := fun hnone =>
    State.startCycle_transmits hb inv hwf hidle hn hw (State.underrun_of_fault_nil (s.startCycle_fault src ▸ hnone))
  have ended : v.fault = [] → State.Transmits s src v :=
    execAll_keeps (P := fun r => r.fault = [] → State.Transmits s src r)
      (fun i hi _ _ h run hnone => (run (exec_fault_before h hnone)).after_exec (fun e => hno (e ▸ hi)) h hnone)
      hops began
  have run := ended (exec_fault_before hcomplete hf)
  cases exec_stepped hcomplete with
  | completes he => exact ⟨rfl, run.out_of_donePend (State.completeEnabled_iff.mp he).2⟩

end Sys2Proof.Machine
end
